-- ==== Sys2Proof/Word.lean ====
section
/-! DEFINITION. The word types of the block: the 40-bit command word (R70), the one-bit level (R16, "boolean
level") and the byte of a serialised command word (R53). -/

namespace Sys2Proof

/-- A command word `CW` (R70). Bit 0 is the least significant bit (R12). -/
abbrev Word := BitVec 40

/-- A boolean level of a line: 0 is logic low, 1 is logic high (R12). -/
abbrev Level := BitVec 1

/-- A byte of a serialised command word (R53). -/
abbrev Byte := BitVec 8

end Sys2Proof
end

