-- ==== Sys2Proof/Config.lean ====
section
/-! DEFINITION. What an implementation or the environment fixes: the names of the lines, the straps (R21 to R24),
the environment's moves (R35, R36), and the free values of the model, each an opaque constant without a body. -/

namespace Sys2Proof

/-- The Logical Signal type: four lines, "never extended at runtime" (R9). -/
inductive Signal where
  | tck
  | tms
  | tdi
  | tdo
  deriving DecidableEq, Repr, Inhabited

/-- `OUTS` (R12): the three lines the block drives. TDO is no member, so that it has no output latch (R26). -/
inductive OutSignal where
  | tck
  | tms
  | tdi
  deriving DecidableEq, Repr, Inhabited

/-- A driven line as a Logical Signal. -/
def OutSignal.toSignal : OutSignal → Signal
  | .tck => .tck
  | .tms => .tms
  | .tdi => .tdi

/-- The wait strategies, with the document's numbers 1, 2, 3 as their codes (R22). -/
inductive Strategy where
  /-- Strategy 1, "default/recommended". -/
  | clockDriven
  /-- Strategy 2. -/
  | timerDriven
  /-- Strategy 3. -/
  | thresholdDriven
  deriving DecidableEq, Repr, Inhabited

/-- A platform pad, a (port, pin-index) pair (R23). DESIGN CHOICE, safe (log 3): the types of the two parts, which R23
leaves to the platform, are natural numbers; no rule computes with them. -/
structure Pad where
  port : Nat
  index : Nat
  deriving DecidableEq, Repr, Inhabited

/-- The Physical Pin Binding, total over the four lines (R23). -/
structure Binding where
  tck : Pad
  tms : Pad
  tdi : Pad
  tdo : Pad
  deriving DecidableEq, Repr, Inhabited

/-- The pad a line is bound to. -/
def Binding.pad (b : Binding) : Signal → Pad
  | .tck => b.tck
  | .tms => b.tms
  | .tdi => b.tdi
  | .tdo => b.tdo

/-- The strap inputs `cfg_cpm`, `cfg_strategy` (R83) and the binding: configuration as it stands at the pins. -/
structure StrapPins where
  cpm : BitVec 16
  strategy : BitVec 2
  bind : Binding
  deriving DecidableEq, Repr, Inhabited

/-- What the attached device presents on the TDO pad, `TDO_EXT` (R35). -/
inductive TdoLevel where
  | low
  | high
  /-- Not driven. -/
  | z
  deriving DecidableEq, Repr, Inhabited

/-- One move of the environment between two micro-operations (R14): `now` advances by `advance` microseconds (R36), the
TDO line is presented as `tdo` (R35), and `wake` says whether the platform resumes a sleeping block (R163, `sleep_ack`). -/
structure EnvMove where
  advance : Nat
  tdo : TdoLevel
  wake : Bool
  deriving DecidableEq, Repr, Inhabited

/-! Free values. Nothing in Lean can evaluate one; a claim about one holds for every value. -/

/-- FREE VALUE: the environment's move number `n`, when no move is queued in the state (R14, R35, R36, R163; log 9). -/
opaque Config.freeMove : Nat → EnvMove

/-- FREE VALUE: which of the 24 orders an INIT makes its four calls in (R91; log 11). -/
opaque Config.initOrder : Nat → Nat

/-- FREE VALUE: the level of an output pad whose latch nothing has written, at a probe's instant; it need not stay the
same from one probe to the next (R27; log 12). -/
opaque Config.unwrittenLevel : OutSignal → Nat → Level

/-- FREE VALUE: the strap inputs of this instance (R11, R24: never a number the model fixes; log 1). -/
opaque Config.strapInputs : StrapPins

/-- FREE VALUE: `now` when reset is released, "any natural number" (R40; log 8). -/
opaque Config.resetNow : Nat

/-- FREE VALUE: `TDO_EXT` when reset is released, "any" (R40; log 8). -/
opaque Config.resetTdo : TdoLevel

/-- FREE VALUE: one less than `SETTLE_NOPS`. -/
opaque Config.settleNopsLessOne : Nat

/-- `SETTLE_NOPS`, a natural number of at least 1 (R10). No rule reads its value (R94), and so no definition does (log 13). -/
def Config.settleNops : Nat := Config.settleNopsLessOne + 1

end Sys2Proof
end

