-- ==== Sys2Proof/Syntax.lean ====
section
/-! DEFINITION. The five commands (R72), one constructor per row of the opcode table. -/

namespace Sys2Proof

/-- A command of the block. Each operand has exactly the width its field has (R71), so no operand is out of range. -/
inductive Instr where
  /-- INIT, `initialize()` (R90). -/
  | init
  /-- SET, `setSignal(signal, level)` (R97): an 8-bit signal code and a level. -/
  | set (sig : BitVec 8) (lvl : BitVec 1)
  /-- READ, `readSignal() -> bit` (R98). -/
  | read
  /-- PULSE, `pulseClock()` (R111). -/
  | pulse
  /-- WAIT, `wait(durationMicroseconds)` (R120): the duration, unsigned. -/
  | wait (dur : BitVec 32)
  deriving DecidableEq, Repr

end Sys2Proof
end

