-- ==== Sys2Proof/WellFormed.lean ====
section
/-! DEFINITION. Well-formed commands and well-formed configurations (R21 to R23). -/

namespace Sys2Proof

/-- Every command is well formed: each field's type is its field's exact width (R71), and a signal code outside the four
is a valid command (R80). -/
def Instr.wellFormed : Instr → Bool
  | .init => true
  | .set _ _ => true
  | .read => true
  | .pulse => true
  | .wait _ => true

/-- "four distinct pads" (R23). -/
abbrev Binding.Injective (b : Binding) : Prop := [b.tck, b.tms, b.tdi, b.tdo].Nodup

/-- A well-formed configuration: `CFG.CPM` is not 0 (R21), `CFG.STRATEGY` is not 0 (R22), the binding is injective
(R23). -/
abbrev StrapPins.WellFormed (p : StrapPins) : Prop := p.cpm ≠ 0 ∧ p.strategy ≠ 0 ∧ p.bind.Injective

/-- The strategy of a legal code; the reserved code 0 has none (R22). -/
def Strategy.ofCode (c : BitVec 2) : Option Strategy :=
  if c = 1 then some .clockDriven
  else if c = 2 then some .timerDriven
  else if c = 3 then some .thresholdDriven
  else none

/-- The code of a strategy (R22). -/
def Strategy.code : Strategy → BitVec 2
  | .clockDriven => 1
  | .timerDriven => 2
  | .thresholdDriven => 3

/-- The sampled configuration: `CFG.CPM`, `CFG.STRATEGY`, `CFG.BIND` (R21 to R23), constant after reset (R24). -/
structure Cfg where
  cpm : BitVec 16
  strategy : Strategy
  bind : Binding
  deriving DecidableEq, Repr

/-- The legal values of the sampled configuration (R21, R23). -/
abbrev Cfg.WellFormed (c : Cfg) : Prop := c.cpm ≠ 0 ∧ c.bind.Injective

/-- Sampling the straps (R24, R175): no configuration where they are ill formed, since such an instance has no reset
state. -/
def StrapPins.sample (p : StrapPins) : Option Cfg :=
  match Strategy.ofCode p.strategy with
  | none => none
  | some st => if p.cpm ≠ 0 ∧ p.bind.Injective then some { cpm := p.cpm, strategy := st, bind := p.bind } else none

/-- Well-formed straps, named only so that `Config.straps` is well formed whatever `Config.strapInputs` is (log 1). The
strategy is the document's default (R22); no claim rests on any of the values. -/
def Config.exampleStraps : StrapPins :=
  { cpm := 1, strategy := 1, bind := { tck := ⟨0, 0⟩, tms := ⟨0, 1⟩, tdi := ⟨0, 2⟩, tdo := ⟨0, 3⟩ } }

/-- The straps of the instance whose reset state `State.reset` is: any well-formed straps. An instance with ill-formed
straps has no reset state (R21 to R23), so the free straps are taken only where they are well formed (log 1). -/
def Config.straps : StrapPins :=
  if Config.strapInputs.WellFormed then Config.strapInputs else Config.exampleStraps

/-- The configuration sampled from well-formed straps, field by field, so that each stands without a case split. -/
def Config.cfg : Cfg :=
  { cpm := Config.straps.cpm
    strategy := (Strategy.ofCode Config.straps.strategy).getD .clockDriven
    bind := Config.straps.bind }

end Sys2Proof
end

