-- ==== Sys2Proof/Decode.lean ====
section
/-! DEFINITION. The decoder, total on every command word and on any bytes and refusing by name (R70 to R80, R53), and the
encoder beside it. -/

namespace Sys2Proof

/-- Why a word is `invalid`. -/
inductive DecodeError where
  /-- `OP` in 0x05 to 0xFF selects no command (R78). -/
  | unassignedOpcode
  /-- An assigned `OP` with a reserved bit set (R79). -/
  | reservedBitSet
  /-- Fewer than five bytes of a serialised word (R53). -/
  | truncatedWord
  deriving DecidableEq, Repr

/-- `OP`, bits 39:32 (R70). -/
def opField (w : Word) : BitVec 8 := w.extractLsb' 32 8

/-- `ARG`, bits 31:0 (R70). -/
def argField (w : Word) : BitVec 32 := w.extractLsb' 0 32

/-- `SIG`, bits 15:8 (R71). -/
def sigField (w : Word) : BitVec 8 := w.extractLsb' 8 8

/-- `LVL`, bit 0 (R71). -/
def lvlField (w : Word) : BitVec 1 := w.extractLsb' 0 1

/-- The reserved bits of SET: 31:16 and 7:1 (R71). -/
def setReserved (w : Word) : BitVec 23 := w.extractLsb' 16 16 ++ w.extractLsb' 1 7

/-- A command without operands: every bit of `ARG` is reserved (R71). -/
def decodePlain (i : Instr) (w : Word) : Except DecodeError Instr :=
  if argField w = 0 then .ok i else .error .reservedBitSet

/-- The decoder's verdict on a command word (R72 to R79). -/
def decode (w : Word) : Except DecodeError Instr :=
  if opField w = 0x00 then decodePlain .init w
  else if opField w = 0x01 then
    if setReserved w = 0 then .ok (.set (sigField w) (lvlField w)) else .error .reservedBitSet
  else if opField w = 0x02 then decodePlain .read w
  else if opField w = 0x03 then decodePlain .pulse w
  else if opField w = 0x04 then .ok (.wait (argField w))
  else .error .unassignedOpcode

/-- The command word of a command (R73 to R77). -/
def encode : Instr → Word
  | .init => (0x00 : BitVec 8) ++ (0 : BitVec 32)
  | .set sig lvl => (0x01 : BitVec 8) ++ ((0 : BitVec 16) ++ sig ++ (0 : BitVec 7) ++ lvl)
  | .read => (0x02 : BitVec 8) ++ (0 : BitVec 32)
  | .pulse => (0x03 : BitVec 8) ++ (0 : BitVec 32)
  | .wait dur => (0x04 : BitVec 8) ++ dur

/-- The `match` column of the opcode table (R73 to R77). -/
def tableMatch : Instr → Word
  | .init => 0x0000000000
  | .set _ _ => 0x0100000000
  | .read => 0x0200000000
  | .pulse => 0x0300000000
  | .wait _ => 0x0400000000

/-- The `mask` column of the opcode table (R73 to R77). -/
def tableMask : Instr → Word
  | .init => 0xFFFFFFFFFF
  | .set _ _ => 0xFFFFFF00FE
  | .read => 0xFFFFFFFFFF
  | .pulse => 0xFFFFFFFFFF
  | .wait _ => 0xFF00000000

/-- A command word as five bytes, the `OP` byte first (R53). -/
def toBytes (w : Word) : List Byte :=
  [w.extractLsb' 32 8, w.extractLsb' 24 8, w.extractLsb' 16 8, w.extractLsb' 8 8, w.extractLsb' 0 8]

/-- Reads one serialised command from any bytes and answers it with the bytes after it (R53). -/
def decodeBytes : List Byte → Except DecodeError (Instr × List Byte)
  | b4 :: b3 :: b2 :: b1 :: b0 :: rest =>
    match decode (b4 ++ b3 ++ b2 ++ b1 ++ b0) with
    | .ok i => .ok (i, rest)
    | .error e => .error e
  | _ => .error .truncatedWord

/-- The word whose low `nbits` bits are those of `w` and whose other bits are 0. -/
def tableWord (nbits w : Nat) : Word := BitVec.ofNat 40 (w % 2 ^ nbits)

/-- What the decoder reads from an instruction whose bits are `w`, numbered as the opcode table numbers them: the table's
rows are 40-bit numbers with bit 0 the least significant bit, which is the numbering of `CW` itself (R70). -/
def decodeTableWord (nbits w : Nat) : Option Instr :=
  match decode (tableWord nbits w) with
  | .ok i => some i
  | .error _ => none

end Sys2Proof
end

