-- ==== Sys2Proof/Machine/State.lean ====
section
/-! DEFINITION. The state of the machine as plain data: the block (R20 to R34), the model's record (R37, R38), the ports
(R83, R84), the environment (R35, R36) and the host (R81); the reasons a step can stop; and the state after reset (R40,
R175). -/

namespace Sys2Proof.Machine

/-- `MODE[s]` (R25). The code 3 is "reserved and never produced", so it has no constructor. -/
inductive PinMode where
  /-- Not yet configured: the pad is not driven by the block. -/
  | unconf
  /-- Push-pull output. -/
  | out
  /-- Input with pull-up biasing. -/
  | inPullup
  deriving DecidableEq, Repr

/-- The two-bit code of a pin mode (R25). -/
def PinMode.code : PinMode → BitVec 2
  | .unconf => 0
  | .out => 1
  | .inPullup => 2

/-- The four pin modes (R25). -/
structure Modes where
  tck : PinMode
  tms : PinMode
  tdi : PinMode
  tdo : PinMode
  deriving DecidableEq, Repr

/-- `MODE` read at a line. -/
def Modes.get (m : Modes) : Signal → PinMode
  | .tck => m.tck
  | .tms => m.tms
  | .tdi => m.tdi
  | .tdo => m.tdo

/-- `MODE[s] <- v`. -/
def Modes.set (m : Modes) (s : Signal) (v : PinMode) : Modes :=
  match s with
  | .tck => { m with tck := v }
  | .tms => { m with tms := v }
  | .tdi => { m with tdi := v }
  | .tdo => { m with tdo := v }

/-- Every pin not yet configured (R40). -/
def Modes.unconfigured : Modes := ⟨.unconf, .unconf, .unconf, .unconf⟩

/-- The modes INIT leaves (R90). -/
def Modes.configured : Modes := ⟨.out, .out, .out, .inPullup⟩

/-- No pin is `UNCONF` (R179). -/
def Modes.allConfigured (m : Modes) : Bool :=
  m.tck != .unconf && m.tms != .unconf && m.tdi != .unconf && m.tdo != .unconf

/-- `LVL[s]` for the three driven lines (R26). `none` is the spec's own "no value", a latch nothing has written. -/
structure Latches where
  tck : Option Level
  tms : Option Level
  tdi : Option Level
  deriving DecidableEq, Repr

/-- `LVL` read at a line. -/
def Latches.get (l : Latches) : OutSignal → Option Level
  | .tck => l.tck
  | .tms => l.tms
  | .tdi => l.tdi

/-- `LVL[s] <- v`. -/
def Latches.set (l : Latches) (s : OutSignal) (v : Level) : Latches :=
  match s with
  | .tck => { l with tck := some v }
  | .tms => { l with tms := some v }
  | .tdi => { l with tdi := some v }

/-- No latch written (R40). -/
def Latches.unwritten : Latches := ⟨none, none, none⟩

/-- The events of the trace (R13, R37). -/
inductive Event where
  /-- `EvCfg(s, m)`. -/
  | cfg (s : Signal) (m : PinMode)
  /-- `EvWrite(s, v)`. -/
  | write (s : OutSignal) (v : Level)
  /-- `EvSettle`. -/
  | settle
  /-- `EvSample(b)`. -/
  | sample (b : Level)
  /-- `EvNow(t)`. -/
  | now (t : Nat)
  /-- `EvSleep(ms)`. -/
  | sleep (ms : Nat)
  deriving DecidableEq, Repr

/-- The environment as the block meets it (R35, R36): the clock, the TDO line, the moves queued for it (oldest first) and
how many moves it has made. The last two are the model's own; past the queue, move number `draws` is the free value
`Config.freeMove draws` (log 9). -/
structure Env where
  now : Nat
  tdo : TdoLevel
  script : List EnvMove
  draws : Nat
  deriving DecidableEq, Repr

/-- Why a step faults: never. "The set of exception causes is empty" (R150), so there is no constructor. -/
inductive Fault where
  deriving DecidableEq, Repr

/-- Why a step is refused: the three situations of R154, "not exceptions of the hardware" (log 21). -/
inductive Refusal where
  /-- An instruction without a meaning yet; no arm of exec raises it. Safe. -/
  | notModelled (mnemonic : String)
  /-- Raised by the step on a word the decoder calls invalid (R78, R79, R154 item 1). Safe: the hardware would change
  nothing and go on. -/
  | invalidWord (e : DecodeError)
  /-- Raised by exec on SET, READ, PULSE or WAIT while some `MODE[s] = UNCONF` (R179, R154 item 2). Safe. -/
  | pinsUnconfigured
  /-- Raised by the reset event on ill-formed straps: such an instance "has no reset state" (R21 to R23, R154 item 3).
  Safe. -/
  | illFormedConfiguration
  deriving DecidableEq, Repr

/-- The whole machine. -/
structure State where
  /-- `CFG.CPM`, `CFG.STRATEGY`, `CFG.BIND` (R21 to R24). -/
  cfg : Cfg
  /-- `MODE` (R25). -/
  mode : Modes
  /-- `LVL` (R26). -/
  lvl : Latches
  /-- `BUSY` (R29). -/
  busy : Bool
  /-- `CUR`, the word of the command being executed (R29). -/
  cur : Word
  /-- `CYC`, the pulses the current WAIT must issue (R30). -/
  cyc : BitVec 48
  /-- `ACC`, the clock-pulse accumulator (R30). -/
  acc : BitVec 48
  /-- `SUB`, how far the current pulse has got (R31). -/
  sub : BitVec 2
  /-- `T0`, the clock at the start of a strategy-2 WAIT (R32). -/
  t0 : Nat
  /-- `TR`, the trace; no rule of the block reads it (R37). -/
  tr : List Event
  /-- Where in `TR` the events of each `PulseClock()` execution begin, in order, so that `pulses(T)` of R38 has a value for
  every segment `T`; like `TR` a record that no rule reads (log 5). -/
  pulseAt : List Nat
  /-- The strap inputs, sampled by the reset event only (R24, R83). -/
  straps : StrapPins
  /-- The `rst` input (R83): `none` while nobody is going to assert it; `some n` when it is asserted after `n` more moves of
  the environment, each of which precedes a micro-operation or passes a sleeping block, so that it comes at the boundary of a
  micro-operation (R176; log 6). -/
  rst : Option Nat
  /-- `done`, completion of the current command (R84). -/
  done : Bool
  /-- `rdata`, READ's result, valid with `done` (R84). -/
  rdata : Option Level
  /-- The environment (R35, R36). -/
  env : Env
  /-- The host's command list (R81). -/
  prog : List Word
  /-- The host's command pointer `cp` (R81). -/
  cp : Nat
  deriving DecidableEq, Repr

/-- The state when reset is released (R40, R175), for straps `p` that sample to `c`, in an environment `e`, before a host
with the commands `prog`. The working registers, "unspecified" in R40, are 0 (log 4). -/
def State.released (p : StrapPins) (c : Cfg) (e : Env) (prog : List Word) : State where
  cfg := c
  mode := .unconfigured
  lvl := .unwritten
  busy := false
  cur := 0
  cyc := 0
  acc := 0
  sub := 0
  t0 := 0
  tr := []
  pulseAt := []
  straps := p
  rst := none
  done := false
  rdata := none
  env := e
  prog := prog
  cp := 0

/-- The environment when this instance's reset is released: any clock, any TDO level, no move queued (R40; log 8, log 9). -/
def Env.initial : Env := { now := Config.resetNow, tdo := Config.resetTdo, script := [], draws := 0 }

/-- The machine right after reset (R40, R175), with no command in the host's list (log 10). -/
def State.reset : State := State.released Config.straps Config.cfg Env.initial []

end Sys2Proof.Machine
end

