-- ==== Sys2Proof/Machine/Operands.lean ====
section
/-! DEFINITION. The operand forms: the signal code of SET (R50, R57), the level read from the TDO line (R35), the order of
INIT's calls (R91), and the arithmetic of WAIT, complete (R137). -/

namespace Sys2Proof.Machine

/-- The line a signal code names; codes 4 to 255 name none (R50). -/
def signalOfCode (sig : BitVec 8) : Option Signal :=
  if sig = 0 then some .tck
  else if sig = 1 then some .tms
  else if sig = 2 then some .tdi
  else if sig = 3 then some .tdo
  else none

/-- What a sample of the TDO pad returns: an undriven line reads 1 through the pull-up (R35; PRESUMED by the spec itself
from general knowledge; unsafe; log 14). -/
def sampledLevel : TdoLevel → Level
  | .low => 0
  | .high => 1
  | .z => 1

/-- The mode INIT gives a line (R90). -/
def initMode : Signal → PinMode
  | .tck => .out
  | .tms => .out
  | .tdi => .out
  | .tdo => .inPullup

/-- The four lines ordered by three choices: the first among four, the second among the three left, the third among the two
left (R91). -/
def orderFrom (a b c : Nat) : List Signal :=
  let all : List Signal := [.tck, .tms, .tdi, .tdo]
  let first := all.getD a .tck
  let afterFirst := all.erase first
  let second := afterFirst.getD b .tck
  let afterSecond := afterFirst.erase second
  let third := afterSecond.getD c .tck
  let fourth := (afterSecond.erase third).getD 0 .tck
  [first, second, third, fourth]

/-- Order number `n` of the four lines: the numbers 0 to 23 give the 24 orders, and 0 the order R90 lists (R91). -/
def signalOrder (n : Nat) : List Signal := orderFrom (n % 4) (n / 4 % 3) (n / 12 % 2)

/-- `d × CFG.CPM`, 32 by 16 bits to 48 bits, exact (R124, R137 item 1). -/
def pulseTarget (d : BitVec 32) (cpm : BitVec 16) : BitVec 48 := d.setWidth 48 * cpm.setWidth 48

/-- `CUTOFF`, 50 microseconds (R9). -/
def cutoff : BitVec 32 := 50

/-- `d > CUTOFF`, unsigned and strict: 50 is short and 51 is long (R130, R137 item 4). -/
def isLongWait (d : BitVec 32) : Bool := cutoff < d

/-- `US_PER_MS` (R9). -/
def usPerMs : BitVec 33 := 1000

/-- `ceil(d / 1000)`: a 33-bit sum, floor division, a 23-bit result (R130, R137 item 5). -/
def sleepMs (d : BitVec 32) : BitVec 23 := ((d.setWidth 33 + (usPerMs - 1)) / usPerMs).setWidth 23

/-- `t - T0 ≥ d` on natural numbers, where `t ≥ T0` (R126, R137 item 6). -/
def waitElapsed (t t0 : Nat) (d : BitVec 32) : Bool := d.toNat ≤ t - t0

end Sys2Proof.Machine
end

