-- ==== Sys2Proof/Machine/Flags.lean ====
section
/-! DEFINITION. The block has no flags and no condition codes (R33). What stands here instead are the handshake bits: which
command is presented, whether it is accepted, whether it is admitted (R84, R179, R81). -/

namespace Sys2Proof.Machine

/-- `cmd_ready = not BUSY` (R84). -/
def State.cmdReady (s : State) : Bool := !s.busy

/-- `cmd_word`: the word the host presents, number `cp` of its list; none when the list is exhausted (R81). -/
def State.cmdWord (s : State) : Option Word := s.prog[s.cp]?

/-- `cmd_valid` (R84). -/
def State.cmdValid (s : State) : Bool := s.cmdWord.isSome

/-- Whether `rst` is asserted now (R175, R176). -/
def State.inReset (s : State) : Bool := s.rst == some 0

/-- Admission: INIT in every idle state, any other command only when no pin is `UNCONF` (R179). -/
def State.admits (s : State) : Instr → Bool
  | .init => true
  | .set _ _ => s.mode.allConfigured
  | .read => s.mode.allConfigured
  | .pulse => s.mode.allConfigured
  | .wait _ => s.mode.allConfigured

/-- The end of a run: the list is exhausted and the block idle (R81, R191). -/
def State.ended (s : State) : Bool := !s.busy && s.cmdWord.isNone

end Sys2Proof.Machine
end

