-- ==== Sys2Proof/Machine/Ops.lean ====
section
/-! DEFINITION. The named operations: the environment's move (R14), the six micro-operations (R13), the procedures
SetSignal (R93) and PulseClock (R110), accepting and completing a command (R84), and the reset event (R175, R176). The block
takes no exception and returns from none (R155); the reset event is the one thing that stops a command. -/

namespace Sys2Proof.Machine

/-! ### The environment -/

/-- The environment's next move: the oldest queued one, else a free one (log 9). -/
def Env.next (e : Env) : EnvMove :=
  match e.script with
  | m :: _ => m
  | [] => Config.freeMove e.draws

/-- The environment moves: the clock never decreases (R36), the TDO line is presented anew (R35). -/
def Env.move (e : Env) : Env where
  now := e.now + e.next.advance
  tdo := e.next.tdo
  script := e.script.tail
  draws := e.draws + 1

/-- The environment after `n` moves. -/
def Env.after : Nat → Env → Env
  | 0, e => e
  | n + 1, e => Env.after n e.move

/-! ### Micro-operations -/

/-- One micro-operation: the environment has moved since the one before (R14), then `f` happens at once (log 18). Once `rst`
is asserted no further micro-operation happens (R176). -/
def microOp (f : State → State) (s : State) : State :=
  match s.rst with
  | some 0 => s
  | some (k + 1) => f { s with rst := some k, env := s.env.move }
  | none => f { s with env := s.env.move }

/-- Appends an event to the trace (R37). -/
def State.log (s : State) (e : Event) : State := { s with tr := s.tr ++ [e] }

/-- `ConfigurePin(s, m)` (R13, R162). -/
def configurePin (sig : Signal) (m : PinMode) : State → State :=
  microOp fun s => { s with mode := s.mode.set sig m }.log (.cfg sig m)

/-- `PadWrite(s, v)`: one bit, no other pad (R13, R55). -/
def padWrite (sig : OutSignal) (v : Level) : State → State :=
  microOp fun s => { s with lvl := s.lvl.set sig v }.log (.write sig v)

/-- `Settle()`: changes no pin and no register (R13, R94). -/
def settle : State → State :=
  microOp fun s => s.log .settle

/-- `PadSample()`: the bit on the TDO pad at this instant, and nothing kept (R13, R28, R56). -/
def padSample (s : State) : Level × State :=
  let s := microOp (fun s => s.log (.sample (sampledLevel s.env.tdo))) s
  (sampledLevel s.env.tdo, s)

/-- `Now()`: the elapsed-time clock (R13, R36). -/
def readClock (s : State) : Nat × State :=
  let s := microOp (fun s => s.log (.now s.env.now)) s
  (s.env.now, s)

/-- `Sleep(ms)` up to the moment the block is asleep; `sleepPoll` of the Timing Engine is the rest (R13, R163). -/
def sleepCall (ms : BitVec 23) : State → State :=
  microOp fun s => s.log (.sleep ms.toNat)

/-! ### Procedures -/

/-- `SetSignal(sig, v)` (R93): a settle delay after a TCK write only (R94); TDO (R96; unsafe; log 20) and the codes 4 to 255
(R95) do nothing. -/
def setSignal (sig : BitVec 8) (v : Level) (s : State) : State :=
  match signalOfCode sig with
  | some .tck => settle (padWrite .tck v s)
  | some .tms => padWrite .tms v s
  | some .tdi => padWrite .tdi v s
  | some .tdo => s
  | none => s

/-- `SUB <- n` (R31). -/
def State.atSub (s : State) (n : BitVec 2) : State := { s with sub := n }

/-- The record of a `PulseClock()` execution whose first event is the next one of `TR` (R38; log 5). -/
def State.markPulse (s : State) : State := { s with pulseAt := s.pulseAt ++ [s.tr.length] }

/-- `PulseClock()` (R110): `SetSignal(TCK, 0)`, `SetSignal(TCK, 1)`, written as its four micro-operations with `SUB` before
each (R31), and recorded as one execution (R38). `SUB` stays 3 at the end (DEDUCED from "`SUB` goes 0, 1, 2, 3", unsafe; log
15). -/
def pulseClock (s : State) : State :=
  let s := padWrite .tck 0 (s.markPulse.atSub 0)
  let s := settle (s.atSub 1)
  let s := padWrite .tck 1 (s.atSub 2)
  settle (s.atSub 3)

/-! ### Reset -/

/-- The reset event (R175): the straps are sampled and the block is as R40 says. The environment and the host's list are not
the block's to change; the host starts its list anew (DEDUCED from R191, unsafe; log 16). Ill-formed straps are refused (R21
to R23). -/
def resetEvent (s : State) : Host.Outcome State Fault Refusal :=
  match s.straps.sample with
  | some c => .next (State.released s.straps c s.env s.prog)
  | none => .refused .illFormedConfiguration

/-! ### Commands -/

/-- Acceptance: `BUSY <- 1`, `CUR <- cmd_word` (R84). -/
def accept (i : Instr) (s : State) : State :=
  { s with busy := true, cur := encode i, done := false, rdata := none }

/-- The end of a command: `done` with the result, `BUSY <- 0` (R84), and the host's `cp <- cp + 1` (R81; log 19, log 23). A command that
`rst` has cut short does not complete (R176). -/
def finish (result : Option Level) (s : State) : Host.Outcome State Fault Refusal :=
  if s.inReset then resetEvent s
  else .next { s with busy := false, done := true, rdata := result, cp := s.cp + 1 }

/-- A command that has to go on later leaves the block `BUSY`, unless `rst` has cut it short (R176). -/
def suspend (s : State) : Host.Outcome State Fault Refusal :=
  if s.inReset then resetEvent s else .next s

/-- A command presented to the block: not accepted while `BUSY` (R84), refused before INIT (R179), else accepted and run. -/
def issue (i : Instr) (run : State → Host.Outcome State Fault Refusal) (s : State) :
    Host.Outcome State Fault Refusal :=
  if s.busy then .next s
  else if s.admits i then run (accept i s)
  else .refused .pinsUnconfigured

end Sys2Proof.Machine
end

