-- ==== Sys2Proof/Machine/ClockPulse.lean ====
section
/-! DEFINITION. The clock-pulse primitive as a command, PULSE (R111). -/

namespace Sys2Proof.Machine

/-- PULSE (R111). -/
def execPulse (s : State) : Host.Outcome State Fault Refusal :=
  issue .pulse (fun s => finish none (pulseClock s)) s

end Sys2Proof.Machine
end

