-- ==== Sys2Proof/Machine/SignalDriver.lean ====
section
/-! DEFINITION. The Signal Driver's commands INIT, SET and READ (R90 to R99). -/

namespace Sys2Proof.Machine

/-- The four `ConfigurePin` calls, in order number `n` (R90, R91). -/
def configureAll (n : Nat) (s : State) : State :=
  (signalOrder n).foldl (fun s sig => configurePin sig (initMode sig) s) s

/-- INIT (R90), its calls in a free order (R91; log 11). "The end state is the same for all orders" (R91): the modes are
written out once more, so that they read as they are whatever the order. -/
def execInit (s : State) : Host.Outcome State Fault Refusal :=
  issue .init (fun s => finish none { configureAll (Config.initOrder s.env.draws) s with mode := .configured }) s

/-- SET (R97). -/
def execSet (sig : BitVec 8) (lvl : BitVec 1) (s : State) : Host.Outcome State Fault Refusal :=
  issue (.set sig lvl) (fun s => finish none (setSignal sig lvl s)) s

/-- READ (R98): the bit goes to the host on `rdata`, with `done`. -/
def execRead (s : State) : Host.Outcome State Fault Refusal :=
  issue .read (fun s => let r := padSample s; finish (some r.1) r.2) s

end Sys2Proof.Machine
end

