-- ==== Sys2Proof/Machine/TimingEngine.lean ====
section
/-! DEFINITION. The Timing Engine's command WAIT under its three strategies (R120 to R140). A WAIT whose end the environment
decides (the clock of strategy 2, the sleep of strategy 3) leaves the block `BUSY` until the environment lets it end, so
that a stopped clock or an endless sleep is an endless run (R128, R163; log 19). -/

namespace Sys2Proof.Machine

/-- `PulseClock(); ACC <- ACC + 1` (R123, R129). -/
def countedPulse (s : State) : State :=
  let s := pulseClock s
  { s with acc := s.acc + 1 }

/-- `while ACC ≠ CYC`, at most `fuel` times (R123). -/
def pulseWhile : Nat → State → State
  | 0, s => s
  | fuel + 1, s => if s.acc = s.cyc then s else pulseWhile fuel (countedPulse s)

/-- The counted pulse loop of strategies 1 and 3: `CYC <- n; ACC <- 0`, then the loop, which ends after exactly `CYC`
iterations (R123, R129, R139). -/
def countedPulses (n : BitVec 48) (s : State) : State :=
  pulseWhile n.toNat { s with cyc := n, acc := 0 }

/-- Strategy 1 (R123). -/
def waitClockDriven (d : BitVec 32) (s : State) : Host.Outcome State Fault Refusal :=
  finish none (countedPulses (pulseTarget d s.cfg.cpm) s)

/-- One iteration of strategy 2's loop: pulse first, check after (R126). -/
def timerIteration (d : BitVec 32) (s : State) : Host.Outcome State Fault Refusal :=
  let r := readClock (pulseClock s)
  if waitElapsed r.1 r.2.t0 d then finish none r.2 else suspend r.2

/-- Strategy 2 (R126): `T0 <- Now()`, then the loop. -/
def waitTimerDriven (d : BitVec 32) (s : State) : Host.Outcome State Fault Refusal :=
  let r := readClock s
  timerIteration d { r.2 with t0 := r.1 }

/-- The block asleep: `rst` ends it (R134, R176), else the environment moves, and the block goes on only if the platform
resumes it (R163, R164). It performs no micro-operation itself (`id`, R132). The move is any move: a sleep that ends early
or never is excluded only by the hypothesis `SLEEP_TRUE` (Safety.lean; log 17). -/
def sleepPoll (s : State) : Host.Outcome State Fault Refusal :=
  if s.inReset then resetEvent s
  else if s.env.next.wake then finish none (microOp id s)
  else suspend (microOp id s)

/-- Strategy 3 (R129). -/
def waitThreshold (d : BitVec 32) (s : State) : Host.Outcome State Fault Refusal :=
  if isLongWait d then sleepPoll (sleepCall (sleepMs d) (setSignal 0 0 s))
  else finish none (countedPulses (d.setWidth 48) s)

/-- WAIT (R120): the strategy is read once, at the start (R121). -/
def execWait (dur : BitVec 32) (s : State) : Host.Outcome State Fault Refusal :=
  issue (.wait dur) (fun s =>
    match s.cfg.strategy with
    | .clockDriven => waitClockDriven dur s
    | .timerDriven => waitTimerDriven dur s
    | .thresholdDriven => waitThreshold dur s) s

/-- The command in `CUR` goes on: a strategy-2 WAIT with its next iteration, a long strategy-3 WAIT asleep. No other command
is ever left unfinished, so any other one is at its end (log 26). -/
def continueCommand (s : State) : Host.Outcome State Fault Refusal :=
  match decode s.cur with
  | .ok (.wait d) =>
    match s.cfg.strategy with
    | .timerDriven => timerIteration d s
    | .thresholdDriven => if isLongWait d then sleepPoll s else finish none s
    | .clockDriven => finish none s
  | _ => finish none s

end Sys2Proof.Machine
end

