-- ==== Sys2Proof/Machine/Dispatch.lean ====
section
/-! DEFINITION. One arm per command. -/

namespace Sys2Proof.Machine

/-- The meaning of a command presented to the block (R72). -/
def exec (i : Instr) (s : State) : Host.Outcome State Fault Refusal :=
  match i with
  | .init => Sys2Proof.Machine.execInit s
  | .set sig lvl => Sys2Proof.Machine.execSet sig lvl s
  | .read => Sys2Proof.Machine.execRead s
  | .pulse => Sys2Proof.Machine.execPulse s
  | .wait dur => Sys2Proof.Machine.execWait dur s

end Sys2Proof.Machine
end

