-- ==== Sys2Proof/Machine/Step.lean ====
section
/-! DEFINITION. One step of the machine: reset, or the command in the block going on, or the host's next command. -/

namespace Sys2Proof.Machine

/-- One step. An asserted `rst` comes first (R175, R176); a busy block goes on with its command and accepts none (R29, R84);
an idle one takes the word the host presents (R81), refused if invalid (R78, R79); with no word presented it is idle and
"stays so" (R81; log 22). -/
def step (s : State) : Host.Outcome State Fault Refusal :=
  if s.inReset then resetEvent s
  else if s.busy then continueCommand s
  else
    match s.cmdWord with
    | none => .next s
    | some w =>
      match decode w with
      | .ok i => exec i s
      | .error e => .refused (.invalidWord e)

/-- `s` with one word stored where the next step takes its command: number `cp` of the host's list. The block is made ready
(`BUSY = 0`, `rst` not asserted), which is all the handshake needs (R84); the pins are left as they are, so that admission
(R179) is the command's own matter (log 10). -/
def State.withFetchWord (s : State) (nbits w : Nat) : State :=
  { s with
    prog := s.prog.take s.cp ++ List.replicate (s.cp - s.prog.length) 0 ++ tableWord nbits w :: s.prog.drop (s.cp + 1)
    busy := false
    rst := none }

/-- `s` with a whole command list loaded into the host, from its first command (R191). -/
def State.withProgram (s : State) (ws : List Word) : State := { s with prog := ws, cp := 0 }

end Sys2Proof.Machine
end

