-- ==== Sys2Proof/Machine/Assembler.lean ====
section
/-! DEFINITION. The assembler syntax of R82: one command per line. A line is a list of characters
(log 24). -/

namespace Sys2Proof.Machine

/-- Why a line is no command. -/
inductive AsmError where
  /-- A mnemonic or a number of operands that R82 does not list. -/
  | unknownForm
  /-- An operand that is no decimal number and no line's name. -/
  | badOperand
  /-- A number outside its operand's range. -/
  | outOfRange
  deriving DecidableEq, Repr

/-- A decimal digit's value. -/
def digitValue (c : Char) : Option Nat :=
  if 48 ≤ c.toNat ∧ c.toNat ≤ 57 then some (c.toNat - 48) else none

/-- A decimal number with the digits `cs` after a number `acc` already read. -/
def decimalFrom : Nat → List Char → Option Nat
  | acc, [] => some acc
  | acc, c :: cs =>
    match digitValue c with
    | some v => decimalFrom (acc * 10 + v) cs
    | none => none

/-- A decimal number of at least one digit. -/
def decimal : List Char → Option Nat
  | [] => none
  | c :: cs => decimalFrom 0 (c :: cs)

/-- The words of a line: pieces without spaces, tabs or commas, where a comma is a word of its own. `word` is the piece read
so far. -/
def asmWords : List Char → List Char → List (List Char)
  | word, [] => if word.isEmpty then [] else [word]
  | word, c :: cs =>
    if c = ';' then if word.isEmpty then [] else [word]
    else if c = ' ' ∨ c = '\t' then
      if word.isEmpty then asmWords [] cs else word :: asmWords [] cs
    else if c = ',' then
      if word.isEmpty then [','] :: asmWords [] cs else word :: [','] :: asmWords [] cs
    else asmWords (word ++ [c]) cs

/-- A number below `bound`. -/
def boundedNumber (bound : Nat) (w : List Char) : Except AsmError Nat :=
  match decimal w with
  | none => .error .badOperand
  | some n => if n < bound then .ok n else .error .outOfRange

/-- `<sig>`: a line's name or a number 0 to 255 (R82). -/
def asmSignal (w : List Char) : Except AsmError (BitVec 8) :=
  if w = ['T', 'C', 'K'] then .ok 0
  else if w = ['T', 'M', 'S'] then .ok 1
  else if w = ['T', 'D', 'I'] then .ok 2
  else if w = ['T', 'D', 'O'] then .ok 3
  else (boundedNumber 256 w).map (BitVec.ofNat 8)

/-- SET's operands (R82). -/
def asmSet (sig lvl : List Char) : Except AsmError Instr :=
  match asmSignal sig, boundedNumber 2 lvl with
  | .ok s, .ok v => .ok (.set s (BitVec.ofNat 1 v))
  | .error e, _ => .error e
  | _, .error e => .error e

/-- The command a line stands for; `none` for a line with only a comment or nothing (R82). -/
def assemble (line : List Char) : Except AsmError (Option Instr) :=
  match asmWords [] line with
  | [] => .ok none
  | [m] =>
    if m = ['I', 'N', 'I', 'T'] then .ok (some .init)
    else if m = ['R', 'E', 'A', 'D'] then .ok (some .read)
    else if m = ['P', 'U', 'L', 'S', 'E'] then .ok (some .pulse)
    else .error .unknownForm
  | [m, d] =>
    if m = ['W', 'A', 'I', 'T'] then (boundedNumber 4294967296 d).map fun n => some (.wait (BitVec.ofNat 32 n))
    else .error .unknownForm
  | [m, sig, comma, lvl] =>
    if m = ['S', 'E', 'T'] ∧ comma = [','] then (asmSet sig lvl).map some
    else .error .unknownForm
  | _ => .error .unknownForm

end Sys2Proof.Machine
end

