-- ==== Sys2Proof/Machine/Ports.lean ====
section
/-! DEFINITION. What can be seen from outside: the pads (R27, R51, R55) and the ports (R83), each a function of the state. -/

namespace Sys2Proof.Machine

/-- What the block does to a pad. -/
inductive PadDrive where
  /-- The pad is not driven by the block. -/
  | undriven
  /-- The pad is an input pulled up. -/
  | pulledUp
  /-- The pad is driven to a level. -/
  | driven (v : Level)
  deriving DecidableEq, Repr

/-- The level of an output latch at a probe: an unwritten one drives a level that is not fixed, at each probe anew (R27; log
12). -/
def driveLevel (s : State) (o : OutSignal) (probe : Nat) : Level :=
  match s.lvl.get o with
  | some v => v
  | none => Config.unwrittenLevel o probe

/-- What a driven line's pad shows (R27). -/
def outPad (s : State) (o : OutSignal) (probe : Nat) : PadDrive :=
  match s.mode.get o.toSignal with
  | .unconf => .undriven
  | .out => .driven (driveLevel s o probe)
  | .inPullup => .pulledUp

/-- What the TDO pad shows of the block: it has no output latch (R26, R28). -/
def tdoPad (s : State) : PadDrive :=
  match s.mode.tdo with
  | .unconf => .undriven
  | .out => .undriven
  | .inPullup => .pulledUp

/-- What the block does to a line's pad. -/
def linePad (s : State) (probe : Nat) : Signal → PadDrive
  | .tck => outPad s .tck probe
  | .tms => outPad s .tms probe
  | .tdi => outPad s .tdi probe
  | .tdo => tdoPad s

/-- What the block does to a pad of the platform: nothing, unless a line is bound to it (R51). -/
def probePad (s : State) (p : Pad) (probe : Nat) : PadDrive :=
  if s.cfg.bind.tck = p then linePad s probe .tck
  else if s.cfg.bind.tms = p then linePad s probe .tms
  else if s.cfg.bind.tdi = p then linePad s probe .tdi
  else if s.cfg.bind.tdo = p then linePad s probe .tdo
  else .undriven

/-- `tck_oe`, `tms_oe`, `tdi_oe` (R83). -/
def outputEnable (s : State) (o : OutSignal) : Bool := s.mode.get o.toSignal == .out

/-- `tdo_pue` (R83). -/
def tdoPullupEnable (s : State) : Bool := s.mode.tdo == .inPullup

/-- `sleep_req` with `sleep_ms`: the length of the sleep the block is in (R83, R129, R164). -/
def sleepRequest (s : State) : Option (BitVec 23) :=
  if s.busy && s.cfg.strategy == .thresholdDriven then
    match decode s.cur with
    | .ok (.wait d) => if isLongWait d then some (sleepMs d) else none
    | _ => none
  else none

end Sys2Proof.Machine
end

