-- ==== Sys2Proof/Machine/Trace.lean ====
section
/-! DEFINITION. The observation: counts and edges of a trace segment (R38, R39). A segment is named by its ends: `TR` from
event number `i` to before event number `j`, counted from 0. `pulses` of R38 is no function of the events (the pair SET TCK,0;
SET TCK,1 gives the same four, R113), so the state records where each execution begins (log 5). -/

namespace Sys2Proof.Machine

/-- The level an event writes to TCK. -/
def tckWriteOf : Event → Option Level
  | .write .tck v => some v
  | .write .tms _ => none
  | .write .tdi _ => none
  | .cfg _ _ => none
  | .settle => none
  | .sample _ => none
  | .now _ => none
  | .sleep _ => none

/-- The level an event writes to a line. -/
def writeOf (o : OutSignal) : Event → Option Level
  | .write o' v => if o' = o then some v else none
  | .cfg _ _ => none
  | .settle => none
  | .sample _ => none
  | .now _ => none
  | .sleep _ => none

/-- `writes(T, s)`, as the levels written, in order (R38). -/
def writes (T : List Event) (o : OutSignal) : List Level := T.filterMap (writeOf o)

/-- The readings of the clock, in order. -/
def clockReadings (T : List Event) : List Nat :=
  T.filterMap fun | .now t => some t | .cfg _ _ => none | .write _ _ => none | .settle => none | .sample _ => none | .sleep _ => none

/-- The lengths of the sleep calls, in order. -/
def sleepCalls (T : List Event) : List Nat :=
  T.filterMap fun | .sleep ms => some ms | .cfg _ _ => none | .write _ _ => none | .settle => none | .sample _ => none | .now _ => none

/-- The bits sampled, in order. -/
def sampledBits (T : List Event) : List Level :=
  T.filterMap fun | .sample b => some b | .cfg _ _ => none | .write _ _ => none | .settle => none | .now _ => none | .sleep _ => none

/-- `sleeps(T)` (R38). -/
def sleeps (T : List Event) : Nat := (sleepCalls T).length

/-- `samples(T)` (R38). -/
def samples (T : List Event) : Nat := (sampledBits T).length

/-- The segment of a trace from event `i` to before event `j` (R38). -/
def traceSegment (T : List Event) (i j : Nat) : List Event := (T.drop i).take (j - i)

/-- How many of the executions that begin at `marks` have all their four events from event `i` to before event `j` (R38). -/
def pulsesIn (marks : List Nat) (i j : Nat) : Nat := marks.countP fun p => decide (i ≤ p) && decide (p + 4 ≤ j)

/-- `pulses(T)` for the segment of `TR` from event `i` to before event `j` (R38). -/
def State.pulses (s : State) (i j : Nat) : Nat := pulsesIn s.pulseAt i j

/-- The number of `EvSettle` events (R112). -/
def settles (T : List Event) : Nat := T.count .settle

/-- Whether a write of `v` over the previous level `prev` is an edge to level `v`: over the opposite level it is, over the
same level it is none, and over no level it is what `unknown` says, which R39 leaves open. -/
def edgeTo (unknown : Bool) (prev : Option Level) (v : Level) : Bool :=
  match prev with
  | some p => p != v
  | none => unknown

/-- Edges of TCK to the level `target` in a segment that begins with TCK's latch at `prev` (R39). A claim about edges holds
for both values of `unknown`. -/
def edges (unknown : Bool) (target : Level) : Option Level → List Event → Nat
  | _, [] => 0
  | prev, e :: T =>
    match tckWriteOf e with
    | some v => (if v = target ∧ edgeTo unknown prev v then 1 else 0) + edges unknown target (some v) T
    | none => edges unknown target prev T

/-- `rises(T, p)` (R39). -/
def rises (unknown : Bool) (p : Option Level) (T : List Event) : Nat := edges unknown 1 p T

/-- Falling edges (R39). -/
def falls (unknown : Bool) (p : Option Level) (T : List Event) : Nat := edges unknown 0 p T

/-- The four events of one `PulseClock()` (R110). -/
def pulseEvents : List Event := [.write .tck 0, .settle, .write .tck 1, .settle]

/-- The events of `n` pulses in a tight sequence (R112, R123). -/
def pulseTrain : Nat → List Event
  | 0 => []
  | n + 1 => pulseEvents ++ pulseTrain n

/-- The events of `n` iterations of strategy 2's loop, the clock read as `reading i` after pulse `i`, from iteration `i` on
(R126). -/
def timerTrain (reading : Nat → Nat) : Nat → Nat → List Event
  | _, 0 => []
  | i, n + 1 => pulseEvents ++ [.now (reading i)] ++ timerTrain reading (i + 1) n

/-- The beginnings of `n` executions, the first at event `at0` and each `gap` events after the one before. -/
def pulseStarts (at0 gap : Nat) : Nat → List Nat
  | 0 => []
  | n + 1 => at0 :: pulseStarts (at0 + gap) gap n

/-- The level last written to a line, if any (R26). -/
def lastWrite (T : List Event) (o : OutSignal) : Option Level := (writes T o).getLast?

/-- Every TCK write is followed at once by exactly one `EvSettle`, and an `EvSettle` stands nowhere else (R94, R182).
`pending` says that a TCK write has just been seen. -/
def settleDiscipline : Bool → List Event → Bool
  | pending, [] => !pending
  | true, e :: T => e == .settle && settleDiscipline false T
  | false, e :: T => e != .settle && settleDiscipline (tckWriteOf e).isSome T

end Sys2Proof.Machine
end

