-- ==== Sys2Proof/Safety.lean ====
section
/-! DEFINITION. The terms claims are stated in: idle and ready states, the shape of a completed command, the invariants of the
machine, and the named hypotheses of the spec (SLEEP_TRUE, calibration). -/

namespace Sys2Proof.Machine

/-- Idle, and `rst` is not going to be asserted during the command. -/
abbrev State.Idle (s : State) : Prop := s.busy = false ∧ s.rst = none

/-- Idle with every pin configured: the states in which every command is admitted (R179). -/
abbrev State.Ready (s : State) : Prop := s.busy = false ∧ s.mode.allConfigured = true ∧ s.rst = none

/-- `s` after a command `i` of `k` micro-operations with the result `r`, apart from what `i` itself does to pins, working
registers and trace: the environment has moved `k` times, and the handshake is complete (R84, R81). -/
def State.completed (s : State) (i : Instr) (k : Nat) (r : Option Level) : State :=
  { s with env := s.env.after k, busy := false, cur := encode i, done := true, rdata := r, cp := s.cp + 1 }

/-- `s` with a command `i` accepted, `k` micro-operations or polls made, and the command not yet complete (R84, R29). -/
def State.underway (s : State) (i : Instr) (k : Nat) : State :=
  { s with env := s.env.after k, busy := true, cur := encode i, done := false, rdata := none }

/-- `s` after `n` pulses (R110): TCK high, unless there was none. -/
def State.pulsed (s : State) (n : Nat) : State :=
  { s with
    lvl := if n = 0 then s.lvl else s.lvl.set .tck 1
    sub := if n = 0 then s.sub else 3
    pulseAt := s.pulseAt ++ pulseStarts s.tr.length 4 n
    tr := s.tr ++ pulseTrain n }

/-- The signal code of a driven line (R50). -/
def codeOf : OutSignal → BitVec 8
  | .tck => 0
  | .tms => 1
  | .tdi => 2

/-- `s` with `events` appended to the trace. -/
def State.logged (s : State) (events : List Event) : State := { s with tr := s.tr ++ events }

/-- A map over next states. -/
def onNext (f : State → State) : Host.Outcome State Fault Refusal → Host.Outcome State Fault Refusal
  | .next s => .next (f s)
  | .fault r => .fault r
  | .refused r => .refused r

/-- The same command issued `n` times, one after the other. -/
def execTimes (i : Instr) : Nat → State → Host.Outcome State Fault Refusal
  | 0, s => .next s
  | n + 1, s =>
    match exec i s with
    | .next t => execTimes i n t
    | .fault r => .fault r
    | .refused r => .refused r

/-- `n` steps of the machine, one after the other. -/
def steps : Nat → State → Host.Outcome State Fault Refusal
  | 0, s => .next s
  | n + 1, s =>
    match step s with
    | .next t => steps n t
    | .fault r => .fault r
    | .refused r => .refused r

/-- The clock's answer number `i` (from 0) in the loop of a strategy-2 WAIT issued in `s` (R126): one micro-operation reads
`T0`, and each iteration has five. -/
def timerReading (s : State) (i : Nat) : Nat := (s.env.after (6 + 5 * i)).now

/-- `T0` of a strategy-2 WAIT issued in `s` (R126). -/
def timerStart (s : State) : Nat := (s.env.after 1).now

/-- `CLOCK_PROGRESS` (R128), for one reading: the clock comes to read at least `t`. The spec's hypothesis gives this for every
`t`. -/
def ClockReaches (e : Env) (t : Nat) : Prop := ∃ m, t ≤ (e.after m).now

/-- "The sleep returns" (R163) for a block that falls asleep in environment `e`: the platform resumes it at some poll. A
liveness assumption; without it an endless sleep is a run of the model (log 17). -/
def SleepReturns (e : Env) : Prop := ∃ k, (e.after k).next.wake = true

/-- "Not early" (R163) for a block that falls asleep in environment `e`: when the platform resumes it, `now` has advanced by at
least `1000 × ms` since the call. -/
def SleepNotEarly (e : Env) (ms : Nat) : Prop :=
  ∀ k, (e.after k).next.wake = true → e.now + 1000 * ms ≤ (e.after (k + 1)).now

/-- `SLEEP_TRUE` (R163): the sleep of `ms` milliseconds "returns, and not early". -/
def SleepTrue (e : Env) (ms : Nat) : Prop := SleepReturns e ∧ SleepNotEarly e ms

/-- `time(T)` (R135) for a segment of `k` events whose micro-operations begin in environment `e`: how far `now` advances. -/
def Env.time (e : Env) (k : Nat) : Nat := (e.after k).now - e.now

/-- "Calibrated for d" (R135), for the WAIT issued in `s`: the `d × CFG.CPM` consecutive pulses of a strategy-1 `WAIT d` take
at least `d` microseconds. The named hypothesis of contract (a) under strategy 1, never a fact (log 25). -/
def State.CalibratedFor (s : State) (d : BitVec 32) : Prop := d.toNat ≤ s.env.time (4 * (d.toNat * s.cfg.cpm.toNat))

/-- "Calibrated" (R135): calibrated for every `d`. -/
def State.Calibrated (s : State) : Prop := ∀ d, s.CalibratedFor d

/-- Each of the `n` pulses from environment `e` on takes at least `num / den` microseconds, the bound `T_PULSE_MIN` of R135's
sufficient condition (log 25). -/
def PulsesTakeAtLeast (e : Env) (n num den : Nat) : Prop :=
  ∀ j, j < n → num ≤ den * (e.after (4 * j)).time 4

/-- The environment's moves in the first step of a command: one before each micro-operation (R99 for INIT, SET and READ, R110
for PULSE, R140 for WAIT) and one that passes a block fallen asleep. -/
def moveCount (s : State) : Instr → Nat
  | .init => 4
  | .set sig _ => if sig = 0 then 2 else if sig = 1 ∨ sig = 2 then 1 else 0
  | .read => 1
  | .pulse => 4
  | .wait d =>
    match s.cfg.strategy with
    | .clockDriven => 4 * (d.toNat * s.cfg.cpm.toNat)
    | .timerDriven => 6
    | .thresholdDriven => if 50 < d.toNat then 4 else 4 * d.toNat

/-- The environment's moves in a further step of the command in a busy block: one before each micro-operation of strategy 2's
next iteration (R126), one that passes a block asleep (R132), and none where the command is at its end (log 26). -/
def laterMoveCount (s : State) : Nat :=
  match decode s.cur with
  | .ok (.wait d) =>
    match s.cfg.strategy with
    | .clockDriven => 0
    | .timerDriven => 5
    | .thresholdDriven => if 50 < d.toNat then 1 else 0
  | _ => 0

/-- The state a reset during a command leaves, `k` moves of the environment on, as far as the rules give it (R40, R175): `t`
says what the working registers, `done` and `rdata` hold, of which the rules say nothing (log 4, log 7). The `rst` input is
withdrawn with the reset, and the host's list stays and starts anew (log 6, log 16). -/
def State.afterReset (s : State) (c : Cfg) (k : Nat) (t : State) : State :=
  { State.released s.straps c (s.env.after k) s.prog with
    cur := t.cur, cyc := t.cyc, acc := t.acc, sub := t.sub, t0 := t.t0, done := t.done, rdata := t.rdata }

/-- `s` with the events `T`, and the executions that begin at `marks`, before everything recorded so far. -/
def State.withPast (s : State) (T : List Event) (marks : List Nat) : State :=
  { s with tr := T ++ s.tr, pulseAt := marks ++ s.pulseAt.map (· + T.length) }

/-! ### Invariants -/

/-- The configuration is legal (R21, R23), and the pins are all unconfigured or as INIT leaves them (R25, R179). -/
def State.LegalConfiguration (s : State) : Prop :=
  s.cfg.WellFormed ∧ (s.mode = .unconfigured ∨ s.mode = .configured)

/-- Each latch holds "the level last written to the signal's pad" (R26), and no value when nothing was written. -/
def State.LatchesMatchTrace (s : State) : Prop := ∀ o, s.lvl.get o = lastWrite s.tr o

/-- Every TCK write of the trace is followed at once by exactly one settle delay, and nothing else is (R94). -/
def State.Settled (s : State) : Prop := settleDiscipline false s.tr = true

/-- The clock readings in the trace never decrease and never exceed the clock (R36). -/
def State.ClockOrdered (s : State) : Prop :=
  (clockReadings s.tr).Pairwise (· ≤ ·) ∧ ∀ t ∈ clockReadings s.tr, t ≤ s.env.now

/-- Each recorded execution of `PulseClock()` has its "four consecutive events" in the trace where it is said to begin, and the
next begins after them (R38). -/
def State.PulsesRecorded (s : State) : Prop :=
  s.pulseAt.Pairwise (fun p q => p + 4 ≤ q) ∧ ∀ p ∈ s.pulseAt, traceSegment s.tr p (p + 4) = pulseEvents

/-- A busy block is in a WAIT whose end the environment decides: in strategy 2's loop with less than the duration elapsed
(R126), or in a long wait's sleep with TCK low (R132). -/
def State.BusyOnlyInWait (s : State) : Prop :=
  s.busy = true → ∃ d, s.cur = encode (.wait d) ∧
    ((s.cfg.strategy = .timerDriven ∧ s.t0 ≤ s.env.now ∧ s.env.now - s.t0 < d.toNat) ∨
      (s.cfg.strategy = .thresholdDriven ∧ 50 < d.toNat ∧ s.lvl.tck = some 0))

end Sys2Proof.Machine
end

