-- ==== Sys2Proof/Certificates/Slice0/Obligations.lean ====
section
/-! DEFINITION. The statements for the provers. Each docstring names the rule of spec/ it states or rests on. A statement
about a next state speaks of every state that meets its hypotheses, reachable or not. `sub := t.sub` in a next state `t` says
nothing of `SUB`, which "cannot be observed" (R31) and whose value after a pulse is the model's reading (log 15). -/

open Sys2Proof Sys2Proof.Machine

/-! ### Encoding -/

/-- R73 to R77: the match and mask of every command, and the words those rules write out. -/
def Obligations.EncodingRowsOfTheTable : Prop :=
  (∀ w : Word,
    (decode w = .ok .init ↔ w &&& 0xFFFFFFFFFF = 0x0000000000) ∧
    ((∃ sig lvl, decode w = .ok (.set sig lvl)) ↔ w &&& 0xFFFFFF00FE = 0x0100000000) ∧
    (decode w = .ok .read ↔ w &&& 0xFFFFFFFFFF = 0x0200000000) ∧
    (decode w = .ok .pulse ↔ w &&& 0xFFFFFFFFFF = 0x0300000000) ∧
    ((∃ d, decode w = .ok (.wait d)) ↔ w &&& 0xFF00000000 = 0x0400000000)) ∧
  (∀ (sig : BitVec 8) (lvl : BitVec 1) (d : BitVec 32),
    (encode .init).toNat = 0 ∧
    (encode (.set sig lvl)).toNat = 0x0100000000 + 256 * sig.toNat + lvl.toNat ∧
    (encode .read).toNat = 0x0200000000 ∧
    (encode .pulse).toNat = 0x0300000000 ∧
    (encode (.wait d)).toNat = 0x0400000000 + d.toNat) ∧
  (encode (.set 0 0) = 0x0100000000 ∧ encode (.set 0 1) = 0x0100000001 ∧ encode (.set 1 1) = 0x0100000101 ∧
    encode (.set 2 0) = 0x0100000200 ∧ encode (.set 3 1) = 0x0100000301 ∧ encode (.set 7 1) = 0x0100000701 ∧
    encode (.wait 0) = 0x0400000000 ∧ encode (.wait 10) = 0x040000000A ∧ encode (.wait 50) = 0x0400000032 ∧
    encode (.wait 51) = 0x0400000033 ∧ encode (.wait 100) = 0x0400000064 ∧
    encode (.wait 4294967295) = 0x04FFFFFFFF)

/-- Decode and encode agree on every well-formed command, each operand at every value (R70 to R77). -/
def Obligations.DecodeOfEncode : Prop :=
  ∀ i : Instr, i.wellFormed = true → decode (encode i) = .ok i

/-- Each valid word has one meaning and no bit of it is dropped (R79: "every one of the 2^40 words is either exactly one
command or `invalid`"). -/
def Obligations.EncodeOfDecoded : Prop :=
  ∀ (w : Word) (i : Instr), decode w = .ok i → encode i = w

/-- R78 and R79: which words are invalid, and under which name; WAIT has no reserved bit. -/
def Obligations.InvalidWords : Prop :=
  ∀ w : Word,
    (decode w = .error .unassignedOpcode ↔ 5 ≤ (opField w).toNat) ∧
    (decode w = .error .reservedBitSet ↔
      (((opField w).toNat = 0 ∨ (opField w).toNat = 2 ∨ (opField w).toNat = 3) ∧ (argField w).toNat ≠ 0) ∨
        ((opField w).toNat = 1 ∧ (w.toNat / 2 % 128 ≠ 0 ∨ w.toNat / 65536 % 65536 ≠ 0)))

/-- A few words of 95_test_vectors.md 2.1 decode as its table says. -/
def Obligations.SpecWordsDecode : Prop :=
  decode 0x0000000000 = .ok .init ∧ decode 0x0000000001 = .error .reservedBitSet ∧
    decode 0x0100000101 = .ok (.set 1 1) ∧ decode 0x010000FF01 = .ok (.set 255 1) ∧
    decode 0x0180000000 = .error .reservedBitSet ∧ decode 0x0200000000 = .ok .read ∧
    decode 0x0300000000 = .ok .pulse ∧ decode 0x0400000033 = .ok (.wait 51) ∧
    decode 0x0500000000 = .error .unassignedOpcode

/-- R53: a serialised word is five bytes, the OP byte first and bits 7 to 0 last, and what follows it is left unread. -/
def Obligations.SerialisedWordIsBigEndian : Prop :=
  ∀ (w : Word) (rest : List Byte),
    (decodeBytes (toBytes w ++ rest) =
      match decode w with
      | .ok i => .ok (i, rest)
      | .error e => .error e) ∧
    (toBytes w).map BitVec.toNat =
      [w.toNat / 2 ^ 32, w.toNat / 2 ^ 24 % 256, w.toNat / 2 ^ 16 % 256, w.toNat / 2 ^ 8 % 256, w.toNat % 256]

/-! ### The step -/

/-- A step of an idle block runs the command the presented word decodes to (R81, R84); nothing stands around it, since
`exec` itself does the handshake. -/
def Obligations.StepRunsPresentedCommand : Prop :=
  ∀ (s : State) (w : Word) (i : Instr),
    s.inReset = false → s.busy = false → s.cmdWord = some w → decode w = .ok i → step s = exec i s

/-- A word placed for the next fetch is the word the idle block is presented with (the model's own fetch, log 10). -/
def Obligations.FetchWordIsPresented : Prop :=
  ∀ (s : State) (w : Word),
    (s.withFetchWord 40 w.toNat).cmdWord = some w ∧ (s.withFetchWord 40 w.toNat).busy = false ∧
      (s.withFetchWord 40 w.toNat).inReset = false ∧ (s.withFetchWord 40 w.toNat).cp = s.cp

/-- R78, R79, R154 item 1: an invalid word is refused, with the decoder's reason. -/
def Obligations.StepRefusesInvalidWord : Prop :=
  ∀ (s : State) (w : Word) (e : DecodeError),
    s.inReset = false → s.busy = false → s.cmdWord = some w → decode w = .error e →
      step s = .refused (.invalidWord e)

/-- R81: when the list is exhausted "the block is then idle and stays so". That the environment, its clock and its TDO line
included, stands still as well is the model's choice (log 22). -/
def Obligations.IdleWhenListIsExhausted : Prop :=
  ∀ (s : State) (n : Nat), s.inReset = false → s.busy = false → s.prog.length ≤ s.cp →
    steps n s = .next s

/-- R29, R84: while `BUSY = 1` a presented command is not accepted, and nothing changes. -/
def Obligations.BusyBlockAcceptsNoCommand : Prop :=
  ∀ (i : Instr) (s : State), s.busy = true → exec i s = .next s

/-- R179: SET, READ, PULSE and WAIT are refused while some pin is UNCONF; INIT is admitted in every idle state; and after
an INIT all pins stay configured, since no step un-configures one. -/
def Obligations.CommandsBeforeInit : Prop :=
  (∀ (i : Instr) (s : State), i ≠ .init → s.busy = false → (∃ sig, s.mode.get sig = .unconf) →
    exec i s = .refused .pinsUnconfigured) ∧
  (∀ s : State, s.Idle → ∃ t, exec .init s = .next t ∧ t.mode.allConfigured = true) ∧
  (∀ s t : State, s.rst = none → s.mode.allConfigured = true → step s = .next t → t.mode.allConfigured = true)

/-! ### INIT -/

/-- R90, R91: INIT's four calls in some order, the modes it leaves, and nothing else. -/
def Obligations.InitConfiguresPins : Prop :=
  ∀ s : State, s.Idle →
    ∃ calls : List Event,
      calls.Perm [.cfg .tck .out, .cfg .tms .out, .cfg .tdi .out, .cfg .tdo .inPullup] ∧
      exec .init s = .next { (s.completed .init 4 none).logged calls with mode := ⟨.out, .out, .out, .inPullup⟩ }

/-- R92: a second INIT repeats the four calls and the four modes and changes nothing else; no latch is ever touched, so a
pad that drove a level drives it still. An unwritten pad's level need not stay the same (R27): that it does at equal probe
numbers is the model's choice (log 12). -/
def Obligations.InitIsIdempotent : Prop :=
  ∀ s : State, s.Idle →
    ∃ (t u : State) (calls again : List Event),
      exec .init s = .next t ∧ exec .init t = .next u ∧
      t.tr = s.tr ++ calls ∧ u.tr = t.tr ++ again ∧ calls.Perm again ∧
      calls.Perm [.cfg .tck .out, .cfg .tms .out, .cfg .tdi .out, .cfg .tdo .inPullup] ∧
      t.lvl = s.lvl ∧
      u = { (t.completed .init 4 none) with tr := u.tr } ∧
      (s.mode = .configured → ∀ o probe, outPad t o probe = outPad s o probe)

/-! ### SET -/

/-- R93, R94, R97 for TCK, TMS and TDI: the latch and the trace, with the settle delay after a TCK write only. -/
def Obligations.SetWritesOutputLine : Prop :=
  ∀ (s : State) (o : OutSignal) (v : Level), s.Ready →
    exec (.set (codeOf o) v) s =
      .next { (s.completed (.set (codeOf o) v) (if o = .tck then 2 else 1) none).logged
                (if o = .tck then [.write o v, .settle] else [.write o v]) with
              lvl := s.lvl.set o v }

/-- R95: a SET of a code from 4 on performs nothing and completes. -/
def Obligations.SetOfUnknownCodeIsIgnored : Prop :=
  ∀ (s : State) (sig : BitVec 8) (v : Level), 4 ≤ sig.toNat →
    setSignal sig v s = s ∧ (s.Ready → exec (.set sig v) s = .next (s.completed (.set sig v) 0 none))

/-- R96, a decision of the spec where its source is silent (log 20): a SET of TDO performs nothing and completes. -/
def Obligations.SetOfTdoIsIgnored : Prop :=
  ∀ (s : State) (v : Level),
    setSignal 3 v s = s ∧ (s.Ready → exec (.set 3 v) s = .next (s.completed (.set 3 v) 0 none))

/-- R97, R55, R51: after a SET a probe at the line's bound pad sees exactly the level, and every other pad is as before. An
unwritten pad's level need not stay the same (R27): that it does at equal probe numbers is the model's choice (log 12). -/
def Obligations.SetIsSeenOnTheBoundPadOnly : Prop :=
  ∀ (s : State) (o : OutSignal) (v : Level), s.Ready → s.mode = .configured → s.cfg.bind.Injective →
    ∃ t, exec (.set (codeOf o) v) s = .next t ∧
      (∀ probe, probePad t (s.cfg.bind.pad o.toSignal) probe = .driven v) ∧
      (∀ p probe, p ≠ s.cfg.bind.pad o.toSignal → probePad t p probe = probePad s p probe)

/-! ### READ -/

/-- R98, R35: READ samples the TDO line once, as the environment presents it then, hands the bit to the host with `done`, and
changes nothing else. -/
def Obligations.ReadReturnsPresentedLevel : Prop :=
  ∀ (s : State) (b : Level), s.Ready → (s.env.next.tdo = .low ∧ b = 0 ∨ s.env.next.tdo = .high ∧ b = 1) →
    exec .read s = .next ((s.completed .read 1 (some b)).logged [.sample b])

/-- R35 for an undriven line, which the spec marks as general knowledge (log 14): READ returns 1. -/
def Obligations.UndrivenTdoReadsHigh : Prop :=
  ∀ s : State, s.Ready → s.env.next.tdo = .z →
    exec .read s = .next ((s.completed .read 1 (some 1)).logged [.sample 1])

/-! ### PULSE -/

/-- R110, R111: the four micro-operations, and the edges by the level before (`unknown` is what R39 leaves open). -/
def Obligations.PulseDrivesLowThenHigh : Prop :=
  ∀ (s : State) (unknown : Bool), s.Ready →
    (∃ t, exec .pulse s = .next t ∧
      t = { (s.completed .pulse 4 none).logged [.write .tck 0, .settle, .write .tck 1, .settle] with
            lvl := s.lvl.set .tck 1, sub := t.sub, pulseAt := s.pulseAt ++ [s.tr.length] }) ∧
    rises unknown s.lvl.tck [.write .tck 0, .settle, .write .tck 1, .settle] = 1 ∧
    falls unknown s.lvl.tck [.write .tck 0, .settle, .write .tck 1, .settle] =
      (match s.lvl.tck with
       | some p => p.toNat
       | none => unknown.toNat)

/-- R112: `n` PULSE commands append the events of `n` pulses one after the other and nothing else, with `n` rising edges
whatever TCK was before, `2n` TCK writes and `2n` settle delays. The count `pulses(T)` is over a trace whose earlier pulses are
recorded (`PulsesRecorded`, an invariant). -/
def Obligations.PulsesAreNeverCombined : Prop :=
  ∀ (s : State) (n : Nat), s.Ready →
    ∃ t, execTimes .pulse n s = .next t ∧ t.tr = s.tr ++ pulseTrain n ∧
      t.pulseAt = s.pulseAt ++ pulseStarts s.tr.length 4 n ∧
      (s.PulsesRecorded → t.pulses s.tr.length t.tr.length = n) ∧
      (∀ (unknown : Bool) (p : Option Level), rises unknown p (pulseTrain n) = n) ∧
      (writes (pulseTrain n) .tck).length = 2 * n ∧ settles (pulseTrain n) = 2 * n

/-- R113: PULSE and the pair SET TCK,0; SET TCK,1 append the same events and leave the same pins and registers; the pair is
two commands and counts as no pulse. `SUB`, which only a pulse moves, is left out: it "cannot be observed" (R31). -/
def Obligations.PulseEqualsSetPair : Prop :=
  ∀ s : State, s.Ready →
    ∃ a b c, exec .pulse s = .next a ∧ exec (.set 0 0) s = .next b ∧ exec (.set 0 1) b = .next c ∧
      a.tr = c.tr ∧ a.lvl = c.lvl ∧ a.mode = c.mode ∧ a.env = c.env ∧ a.pulseAt = c.pulseAt ++ [s.tr.length] ∧
      a.cp = s.cp + 1 ∧
      c = { a with cur := encode (.set 0 1), sub := c.sub, pulseAt := s.pulseAt, cp := s.cp + 2 }

/-! ### WAIT, strategy 1 -/

/-- R123, R124: exactly `d × CFG.CPM` pulses, the product exact, and nothing else. -/
def Obligations.ClockDrivenWait : Prop :=
  ∀ (s : State) (d : BitVec 32), s.Ready → s.cfg.strategy = .clockDriven →
    d.toNat * s.cfg.cpm.toNat ≤ 281470681677825 ∧
    (pulseTarget d s.cfg.cpm).toNat = d.toNat * s.cfg.cpm.toNat ∧
    (∃ t, exec (.wait d) s = .next t ∧
      t = { (s.completed (.wait d) (4 * (d.toNat * s.cfg.cpm.toNat)) none).pulsed (d.toNat * s.cfg.cpm.toNat) with
            cyc := BitVec.ofNat 48 (d.toNat * s.cfg.cpm.toNat)
            acc := BitVec.ofNat 48 (d.toNat * s.cfg.cpm.toNat)
            sub := t.sub }) ∧
    ∀ (unknown : Bool) (p : Option Level),
      rises unknown p (pulseTrain (d.toNat * s.cfg.cpm.toNat)) = d.toNat * s.cfg.cpm.toNat

/-- R38: a segment of a strategy-1 WAIT's events, from event `a` to before event `b` of the command, which may begin or end
inside a pulse, has as many pulses as have all their four events in it. -/
def Obligations.SegmentsCountTheirPulses : Prop :=
  ∀ (s : State) (d : BitVec 32) (a b : Nat), s.Ready → s.cfg.strategy = .clockDriven → s.PulsesRecorded → a ≤ b →
    b ≤ 4 * (d.toNat * s.cfg.cpm.toNat) →
    ∃ t, exec (.wait d) s = .next t ∧ t.pulses (s.tr.length + a) (s.tr.length + b) = b / 4 - (a + 3) / 4

/-- R125: under strategy 1 with a legal `CFG.CPM` the pulse-count contract (b) always holds. -/
def Obligations.ClockDrivenPulseContract : Prop :=
  ∀ (s : State) (d : BitVec 32), s.Ready → s.cfg.strategy = .clockDriven → s.cfg.cpm ≠ 0 →
    ∃ t, exec (.wait d) s = .next t ∧ t.busy = false ∧ d.toNat ≤ t.pulses s.tr.length t.tr.length

/-- R125, R135: contract (a) under strategy 1 holds exactly where the instance is calibrated, which is a hypothesis and never a
fact; with a constant tuned too low the WAIT completes too early all the same (R136). -/
def Obligations.CalibratedWaitLastsItsDuration : Prop :=
  ∀ s : State, s.Ready → s.cfg.strategy = .clockDriven →
    (∀ d, ∃ t, exec (.wait d) s = .next t ∧ t.busy = false ∧
      (s.env.now + d.toNat ≤ t.env.now ↔ s.CalibratedFor d)) ∧
    (s.Calibrated ↔ ∀ d, ∃ t, exec (.wait d) s = .next t ∧ s.env.now + d.toNat ≤ t.env.now)

/-- R135's sufficient condition: where every pulse takes at least `T_PULSE_MIN = num / den` microseconds and
`CFG.CPM × T_PULSE_MIN ≥ 1`, the instance is calibrated for every `d` whose pulses are bounded so, and calibrated where all
are. -/
def Obligations.LeastPulseTimeCalibrates : Prop :=
  ∀ (s : State) (n num den : Nat), 0 < den → den ≤ s.cfg.cpm.toNat * num → PulsesTakeAtLeast s.env n num den →
    (∀ d : BitVec 32, d.toNat * s.cfg.cpm.toNat ≤ n → s.CalibratedFor d) ∧
    (4294967295 * s.cfg.cpm.toNat ≤ n → s.Calibrated)

/-! ### WAIT, strategy 2 -/

/-- R126: `T0`, one pulse, one re-check; the WAIT completes here if the duration has passed, and is under way otherwise. -/
def Obligations.TimerWaitFirstIteration : Prop :=
  ∀ (s : State) (d : BitVec 32), s.Ready → s.cfg.strategy = .timerDriven →
    ∃ t, exec (.wait d) s = .next t ∧
      (d.toNat ≤ timerReading s 0 - timerStart s →
        t = { (s.completed (.wait d) 6 none).logged
                (.now (timerStart s) :: (pulseEvents ++ [.now (timerReading s 0)])) with
              lvl := s.lvl.set .tck 1, sub := t.sub, pulseAt := s.pulseAt ++ [s.tr.length + 1],
              t0 := timerStart s }) ∧
      (timerReading s 0 - timerStart s < d.toNat →
        t = { (s.underway (.wait d) 6).logged
                (.now (timerStart s) :: (pulseEvents ++ [.now (timerReading s 0)])) with
              lvl := s.lvl.set .tck 1, sub := t.sub, pulseAt := s.pulseAt ++ [s.tr.length + 1],
              t0 := timerStart s })

/-- R126: one more iteration of a strategy-2 WAIT under way, with exactly one pulse. -/
def Obligations.TimerWaitNextIteration : Prop :=
  ∀ (s : State) (d : BitVec 32), s.busy = true → s.rst = none → s.cur = encode (.wait d) →
    s.cfg.strategy = .timerDriven →
    ∃ t, step s = .next t ∧
      (d.toNat ≤ (s.env.after 5).now - s.t0 →
        t = { (s.completed (.wait d) 5 none).logged (pulseEvents ++ [.now (s.env.after 5).now]) with
              lvl := s.lvl.set .tck 1, sub := t.sub, pulseAt := s.pulseAt ++ [s.tr.length] }) ∧
      ((s.env.after 5).now - s.t0 < d.toNat →
        t = { s.logged (pulseEvents ++ [.now (s.env.after 5).now]) with
              env := s.env.after 5, lvl := s.lvl.set .tck 1, sub := t.sub, pulseAt := s.pulseAt ++ [s.tr.length] })

/-- R126, R127: a strategy-2 WAIT completes after its first iteration whose reading reaches the duration, with one pulse per
iteration and so at least one; the elapsed time, as the clock reports it, is at least the duration (contract (a)). -/
def Obligations.TimerWaitCompletes : Prop :=
  ∀ (s : State) (d : BitVec 32) (n : Nat), s.Ready → s.cfg.strategy = .timerDriven →
    s.cmdWord = some (encode (.wait d)) →
    (∀ i, i < n → timerReading s i - timerStart s < d.toNat) → d.toNat ≤ timerReading s n - timerStart s →
    ∃ t, steps (n + 1) s = .next t ∧
      t = { (s.completed (.wait d) (6 + 5 * n) none).logged
              (.now (timerStart s) :: timerTrain (timerReading s) 0 (n + 1)) with
            lvl := s.lvl.set .tck 1, sub := t.sub, pulseAt := s.pulseAt ++ pulseStarts (s.tr.length + 1) 5 (n + 1),
            t0 := timerStart s } ∧
      s.env.now + d.toNat ≤ t.env.now

/-- R128: while the clock's readings stay short of the duration, the WAIT goes on for as many iterations as one likes, one
pulse each, and the block stays `BUSY`. -/
def Obligations.TimerWaitHangs : Prop :=
  ∀ (s : State) (d : BitVec 32) (n : Nat), s.Ready → s.cfg.strategy = .timerDriven →
    s.cmdWord = some (encode (.wait d)) →
    (∀ i, i < n + 1 → timerReading s i - timerStart s < d.toNat) →
    ∃ t, steps (n + 1) s = .next t ∧
      t = { (s.underway (.wait d) (6 + 5 * n)).logged
              (.now (timerStart s) :: timerTrain (timerReading s) 0 (n + 1)) with
            lvl := s.lvl.set .tck 1, sub := t.sub, pulseAt := s.pulseAt ++ pulseStarts (s.tr.length + 1) 5 (n + 1),
            t0 := timerStart s }

/-- R128: a strategy-2 WAIT ends under CLOCK_PROGRESS, taken as far as this WAIT needs it: some instant at which the clock
reads at least `T0 + d`. -/
def Obligations.TimerWaitEndsUnderClockProgress : Prop :=
  ∀ (s : State) (d : BitVec 32), s.Ready → s.cfg.strategy = .timerDriven → s.cmdWord = some (encode (.wait d)) →
    ClockReaches s.env (timerStart s + d.toNat) →
    ∃ n t, steps n s = .next t ∧ t.busy = false ∧ t.done = true ∧ t.cp = s.cp + 1 ∧ 1 ≤ t.pulses s.tr.length t.tr.length ∧
      s.env.now + d.toNat ≤ t.env.now

/-! ### WAIT, strategy 3 -/

/-- R129, R131, the short branch: at or below 50 exactly `d` pulses and no sleep call, whatever the calibration constant. -/
def Obligations.ThresholdShortWait : Prop :=
  ∀ (s : State) (d : BitVec 32), s.Ready → s.cfg.strategy = .thresholdDriven → d.toNat ≤ 50 →
    (∃ t, exec (.wait d) s = .next t ∧
      t = { (s.completed (.wait d) (4 * d.toNat) none).pulsed d.toNat with
            cyc := d.setWidth 48, acc := d.setWidth 48, sub := t.sub }) ∧
    (∀ (unknown : Bool) (p : Option Level), rises unknown p (pulseTrain d.toNat) = d.toNat) ∧
    sleeps (pulseTrain d.toNat) = 0

/-- R129, R131, R132, the long branch: above 50 TCK low, one settle, one sleep call of the ceiling in milliseconds, no
pulse; the WAIT completes if the platform resumes the block, and is asleep otherwise. -/
def Obligations.ThresholdLongWait : Prop :=
  ∀ (s : State) (d : BitVec 32), s.Ready → s.cfg.strategy = .thresholdDriven → 50 < d.toNat →
    ((s.env.after 3).next.wake = true →
      exec (.wait d) s =
        .next { (s.completed (.wait d) 4 none).logged [.write .tck 0, .settle, .sleep ((d.toNat + 999) / 1000)] with
                lvl := s.lvl.set .tck 0 }) ∧
    ((s.env.after 3).next.wake = false →
      exec (.wait d) s =
        .next { (s.underway (.wait d) 4).logged [.write .tck 0, .settle, .sleep ((d.toNat + 999) / 1000)] with
                lvl := s.lvl.set .tck 0 })

/-- R132, R164: a block asleep performs no micro-operation and keeps every pin and register until the platform resumes it,
and then completes; no command is accepted meanwhile. -/
def Obligations.SleepingBlockWaitsForThePlatform : Prop :=
  ∀ (s : State) (d : BitVec 32), s.busy = true → s.rst = none → s.cur = encode (.wait d) →
    s.cfg.strategy = .thresholdDriven → 50 < d.toNat →
    sleepRequest s = some (sleepMs d) ∧
    (s.env.next.wake = true → step s = .next (s.completed (.wait d) 1 none)) ∧
    (s.env.next.wake = false → step s = .next { s with env := s.env.after 1 })

/-- R131, R132, R163, a long wait from its issue: as long as the platform does not resume it the block stays asleep, for as many
polls as one likes; it completes at the first poll at which the platform does, early or not; and if the sleep is not early, it has
lasted at least its duration (contract (a)). One sleep call, no pulse. -/
def Obligations.LongWaitUntilResumed : Prop :=
  ∀ (s : State) (d : BitVec 32) (k : Nat), s.Ready → s.cfg.strategy = .thresholdDriven → 50 < d.toNat →
    s.cmdWord = some (encode (.wait d)) → (∀ j, j < k → (s.env.after (3 + j)).next.wake = false) →
    ((s.env.after (3 + k)).next.wake = false →
      steps (k + 1) s =
        .next { (s.underway (.wait d) (4 + k)).logged [.write .tck 0, .settle, .sleep (sleepMs d).toNat] with
                lvl := s.lvl.set .tck 0 }) ∧
    ((s.env.after (3 + k)).next.wake = true →
      ∃ t, steps (k + 1) s = .next t ∧
        t = { (s.completed (.wait d) (4 + k) none).logged [.write .tck 0, .settle, .sleep (sleepMs d).toNat] with
              lvl := s.lvl.set .tck 0 } ∧
        (SleepNotEarly (s.env.after 3) (sleepMs d).toNat → s.env.now + d.toNat ≤ t.env.now))

/-- R131, R163: under SLEEP_TRUE, the sleep returning and not early, a long wait completes, at the first poll at which the
platform resumes it, and has then lasted at least its duration (contract (a)), with one sleep call and no pulse. -/
def Obligations.LongWaitUnderSleepTrue : Prop :=
  ∀ (s : State) (d : BitVec 32), s.Ready → s.cfg.strategy = .thresholdDriven → 50 < d.toNat →
    s.cmdWord = some (encode (.wait d)) → SleepTrue (s.env.after 3) (sleepMs d).toNat →
    ∃ (k : Nat) (t : State),
      (∀ j, j < k → (s.env.after (3 + j)).next.wake = false) ∧ (s.env.after (3 + k)).next.wake = true ∧
      steps (k + 1) s = .next t ∧
      t = { (s.completed (.wait d) (4 + k) none).logged [.write .tck 0, .settle, .sleep (sleepMs d).toNat] with
            lvl := s.lvl.set .tck 0 } ∧
      s.env.now + d.toNat ≤ t.env.now

/-- R130: the strict unsigned cutoff, and the ceiling, exact for every duration and within 23 bits. -/
def Obligations.CutoffAndCeiling : Prop :=
  ∀ d : BitVec 32,
    (isLongWait d = true ↔ 50 < d.toNat) ∧ (sleepMs d).toNat = (d.toNat + 999) / 1000 ∧
    d.toNat ≤ 1000 * (sleepMs d).toNat ∧ 1000 * (sleepMs d).toNat < d.toNat + 1000 ∧
    (sleepMs d).toNat ≤ 4294968 ∧ (50 < d.toNat → 1 ≤ (sleepMs d).toNat)

/-- R138: the level of TCK after WAIT by strategy, duration and the level before, where the WAIT ends in its first step or is
left under way; and after each further step of a WAIT under way (`BusyOnlyInWait`, an invariant): 1 under strategy 2, and 0 in
a long wait of strategy 3. -/
def Obligations.TckLevelAfterWait : Prop :=
  (∀ (s t : State) (d : BitVec 32), s.Ready → s.cfg.cpm ≠ 0 → exec (.wait d) s = .next t →
    t.lvl.tck =
      match s.cfg.strategy with
      | .clockDriven => if d = 0 then s.lvl.tck else some 1
      | .timerDriven => some 1
      | .thresholdDriven => if d = 0 then s.lvl.tck else if d.toNat ≤ 50 then some 1 else some 0) ∧
  (∀ s : State, s.busy = true → s.rst = none → s.BusyOnlyInWait →
    ∃ t, step s = .next t ∧ t.lvl.tck = if s.cfg.strategy = .timerDriven then some 1 else some 0)

/-! ### Whole-machine rules -/

/-- R150: no command fails; every command a ready block is given ends in a next state. -/
def Obligations.ReadyCommandsNeverFail : Prop :=
  ∀ (i : Instr) (s : State), s.Ready → ∃ t, exec i s = .next t

/-- The writers of R25, R26, R30, R32 and R99: which command may change which pin or register. -/
def Obligations.EachRegisterHasItsWriters : Prop :=
  ∀ (i : Instr) (s t : State), s.rst = none → exec i s = .next t →
    t.cfg = s.cfg ∧ t.straps = s.straps ∧ t.prog = s.prog ∧ t.rst = none ∧
    (i ≠ .init → t.mode = s.mode) ∧
    ((∀ v, i ≠ .set 1 v) → t.lvl.tms = s.lvl.tms) ∧
    ((∀ v, i ≠ .set 2 v) → t.lvl.tdi = s.lvl.tdi) ∧
    ((∀ v, i ≠ .set 0 v) → i ≠ .pulse → (∀ d, i ≠ .wait d) → t.lvl.tck = s.lvl.tck) ∧
    ((∀ d, i ≠ .wait d) → t.cyc = s.cyc ∧ t.acc = s.acc ∧ t.t0 = s.t0) ∧
    (i ≠ .pulse → (∀ d, i ≠ .wait d) → t.sub = s.sub ∧ t.pulseAt = s.pulseAt)

/-- R21, R99, R111, R126, R129: `CFG.CPM` is read by a strategy-1 WAIT only. -/
def Obligations.CalibrationReadByStrategyOneOnly : Prop :=
  ∀ (i : Instr) (s : State) (k : BitVec 16), s.rst = none →
    (s.cfg.strategy ≠ .clockDriven ∨ ∀ d, i ≠ .wait d) →
    exec i { s with cfg := { s.cfg with cpm := k } } =
      onNext (fun t => { t with cfg := { t.cfg with cpm := k } }) (exec i s)

/-- R24: a change of a strap input while the block is out of reset has no effect. -/
def Obligations.StrapInputsHaveNoEffect : Prop :=
  ∀ (s : State) (p : StrapPins), s.rst = none →
    step { s with straps := p } = onNext (fun t => { t with straps := p }) (step s)

/-- R37, R38: nothing in the block reads the trace, nor the record of its pulses. -/
def Obligations.TraceIsNeverRead : Prop :=
  ∀ (s : State) (T : List Event) (marks : List Nat), s.rst = none →
    step (s.withPast T marks) = onNext (fun t => t.withPast T marks) (step s)

/-- R24: the configuration is constant until the reset event samples the straps again. -/
def Obligations.ConfigurationIsConstant : Prop :=
  ∀ s t : State, step s = .next t →
    (s.rst = none → t.cfg = s.cfg) ∧ (t.cfg = s.cfg ∨ s.straps.sample = some t.cfg)

/-- R37, R59: events are appended in order and none is dropped, merged or changed. -/
def Obligations.TraceOnlyGrows : Prop :=
  ∀ s t : State, s.rst = none → step s = .next t → s.tr <+: t.tr

/-- R36: the elapsed-time clock never decreases, through a reset too. -/
def Obligations.ClockNeverDecreases : Prop :=
  ∀ s t : State, step s = .next t → s.env.now ≤ t.env.now

/-! ### Invariants -/

/-- R21, R23, R25, R179: a legal configuration and legal pin modes stay so. -/
def Obligations.StepKeepsLegalConfiguration : Prop :=
  ∀ s t : State, s.LegalConfiguration → step s = .next t → t.LegalConfiguration

/-- R26: each latch is the level last written to its pad, and stays so. -/
def Obligations.StepKeepsLatchesAsLastWritten : Prop :=
  ∀ s t : State, s.LatchesMatchTrace → step s = .next t → t.LatchesMatchTrace

/-- R94, R182: no step leaves a TCK write without its settle delay, or makes another settle delay. -/
def Obligations.StepKeepsTckWritesSettled : Prop :=
  ∀ s t : State, s.Settled → step s = .next t → t.Settled

/-- R36: the readings in the trace stay in order and within the clock. -/
def Obligations.StepKeepsClockReadingsOrdered : Prop :=
  ∀ s t : State, s.ClockOrdered → step s = .next t → t.ClockOrdered

/-- R128, R132, R164: a block is left `BUSY` only in a WAIT whose end the environment decides. `BUSY` is 1 during every command
(R29): that a step leaves it so in such a WAIT only is the model's granularity of a step (log 19). -/
def Obligations.StepKeepsBusyOnlyInWait : Prop :=
  ∀ s t : State, s.BusyOnlyInWait → step s = .next t → t.BusyOnlyInWait

/-- R38: each recorded execution keeps its four events in the trace, and no two share one. -/
def Obligations.StepKeepsPulsesRecorded : Prop :=
  ∀ s t : State, s.PulsesRecorded → step s = .next t → t.PulsesRecorded

/-- The invariants hold right after reset. -/
def Obligations.ResetMeetsTheInvariants : Prop :=
  State.reset.LegalConfiguration ∧ State.reset.LatchesMatchTrace ∧ State.reset.Settled ∧ State.reset.ClockOrdered ∧
    State.reset.PulsesRecorded ∧ State.reset.BusyOnlyInWait

/-! ### Reset -/

/-- R40, R175, R177: what reset leaves, where those rules give a value. -/
def Obligations.ResetLeavesTheBlockIdle : Prop :=
  (∀ sig, State.reset.mode.get sig = .unconf) ∧ (∀ o, State.reset.lvl.get o = none) ∧
    State.reset.busy = false ∧ State.reset.tr = [] ∧ State.reset.straps.WellFormed ∧
    State.reset.straps.sample = some State.reset.cfg ∧ (∀ p probe, probePad State.reset p probe = .undriven) ∧
    ∀ i, i ≠ .init → exec i State.reset = .refused .pinsUnconfigured

/-- R21 to R23, R175: sampling gives the strap values, exactly when they are well formed. -/
def Obligations.SamplingTheStraps : Prop :=
  ∀ p : StrapPins,
    (p.sample = none ↔ p.cpm = 0 ∨ p.strategy = 0 ∨ ¬ p.bind.Injective) ∧
    (∀ c, p.sample = some c → c.cpm = p.cpm ∧ c.strategy.code = p.strategy ∧ c.bind = p.bind ∧ c.WellFormed)

/-- R175, R176, R154 item 3: an asserted `rst` brings the reset state of the straps as they stand, busy or not, and is refused
for ill-formed straps. The working registers are "unspecified", and no rule gives `done` and `rdata`: nothing is said of them
(log 4, log 7). That the environment, the straps and the host's list stay and the list starts anew is the model's reading (log
16), and so is that the input is withdrawn in this very step and not asserted again (log 6). -/
def Obligations.AssertedResetComesFirst : Prop :=
  ∀ s : State, s.rst = some 0 →
    (∀ c, s.straps.sample = some c → ∃ t, step s = .next t ∧ t = s.afterReset c 0 t) ∧
    (s.straps.sample = none → step s = .refused .illFormedConfiguration)

/-- R176: a command that `rst` cuts short after `k` moves of the environment makes no further micro-operation, and the block is
reset: in the command's first step, and in a further step of a WAIT under way, be it an iteration of strategy 2 or a sleep. The
working registers, `done` and `rdata` are left open (log 4, log 7). That the input is a countdown in moves and is
withdrawn by the reset (log 6), and that the host's list stays and starts anew (log 16), are the model's. -/
def Obligations.ResetAbandonsTheCommand : Prop :=
  (∀ (i : Instr) (s : State) (k : Nat), s.busy = false → s.admits i = true → s.rst = some k → k ≤ moveCount s i →
    (∀ c, s.straps.sample = some c → ∃ t, exec i s = .next t ∧ t = s.afterReset c k t) ∧
    (s.straps.sample = none → exec i s = .refused .illFormedConfiguration)) ∧
  (∀ (s : State) (k : Nat), s.busy = true → s.rst = some k → k ≤ laterMoveCount s →
    (∀ c, s.straps.sample = some c → ∃ t, step s = .next t ∧ t = s.afterReset c k t) ∧
    (s.straps.sample = none → step s = .refused .illFormedConfiguration))

/-- R176: a reset that comes after the last move of a step, the command's first or a further one, changes nothing of it; only
its countdown goes on (log 6). -/
def Obligations.LaterResetLeavesTheCommand : Prop :=
  (∀ (i : Instr) (s : State) (k : Nat), s.busy = false → s.admits i = true → s.rst = some k → moveCount s i < k →
    exec i s = onNext (fun t => { t with rst := some (k - moveCount s i) }) (exec i { s with rst := none })) ∧
  (∀ (s : State) (k : Nat), s.busy = true → s.rst = some k → laterMoveCount s < k →
    step s = onNext (fun t => { t with rst := some (k - laterMoveCount s) }) (step { s with rst := none }))
end

