-- ==== Sys2Proof/Laws/Decode.lean ====
section
/-! SUPPORT. The fields of a command word, the encoder and the decoder as arithmetic on the word's number, so that a claim
about encodings is one about quotients and remainders. -/

namespace Sys2Proof

theorem opField_toNat (w : Word) : (opField w).toNat = w.toNat / 2 ^ 32 := by
  simp only [opField, BitVec.extractLsb'_toNat, Nat.shiftRight_eq_div_pow]
  have := w.isLt
  omega

theorem argField_toNat (w : Word) : (argField w).toNat = w.toNat % 2 ^ 32 := by
  simp only [argField, BitVec.extractLsb'_toNat, Nat.shiftRight_eq_div_pow]
  omega

theorem sigField_toNat (w : Word) : (sigField w).toNat = w.toNat / 256 % 256 := by
  simp only [sigField, BitVec.extractLsb'_toNat, Nat.shiftRight_eq_div_pow]

theorem lvlField_toNat (w : Word) : (lvlField w).toNat = w.toNat % 2 := by
  simp only [lvlField, BitVec.extractLsb'_toNat, Nat.shiftRight_eq_div_pow]
  omega

theorem setReserved_toNat (w : Word) :
    (setReserved w).toNat = w.toNat / 65536 % 65536 * 128 + w.toNat / 2 % 128 := by
  refine (BitVec.toNat_append (w.extractLsb' 16 16) (w.extractLsb' 1 7)).trans ?_
  rw [← Nat.shiftLeft_add_eq_or_of_lt (w.extractLsb' 1 7).isLt]
  simp only [BitVec.extractLsb'_toNat, Nat.shiftRight_eq_div_pow, Nat.shiftLeft_eq]

/-- An opcode beside an operand field (R70). -/
theorem append_arg_toNat (op : BitVec 8) (arg : BitVec 32) :
    (op ++ arg : BitVec (8 + 32)).toNat = op.toNat * 2 ^ 32 + arg.toNat := by
  rw [BitVec.toNat_append, ← Nat.shiftLeft_add_eq_or_of_lt arg.isLt, Nat.shiftLeft_eq]

/-- The number of each command's word (R73 to R77). -/
theorem encode_toNat (i : Instr) : (encode i).toNat =
    match i with
    | .init => 0
    | .set sig lvl => 0x0100000000 + 256 * sig.toNat + lvl.toNat
    | .read => 0x0200000000
    | .pulse => 0x0300000000
    | .wait d => 0x0400000000 + d.toNat := by
  cases i with
  | init => rfl
  | read => rfl
  | pulse => rfl
  | set sig lvl =>
    have harg : (0#16 ++ sig ++ 0#7 ++ lvl : BitVec (16 + 8 + 7 + 1)).toNat = 256 * sig.toNat + lvl.toNat := by
      have hl := lvl.isLt
      have hs := sig.isLt
      rw [BitVec.toNat_append, ← Nat.shiftLeft_add_eq_or_of_lt hl, BitVec.toNat_append,
        ← Nat.shiftLeft_add_eq_or_of_lt (by decide), BitVec.toNat_append, ← Nat.shiftLeft_add_eq_or_of_lt hs]
      simp only [Nat.shiftLeft_eq, BitVec.toNat_ofNat]
      omega
    refine (append_arg_toNat 0x01 (0#16 ++ sig ++ 0#7 ++ lvl : BitVec (16 + 8 + 7 + 1))).trans ?_
    rw [harg, show (0x01 : BitVec 8).toNat = 1 from rfl]
    exact (Nat.add_assoc _ _ _).symm
  | wait d => exact append_arg_toNat 0x04 d

theorem opField_eq_iff (w : Word) (n : Nat) (hn : n < 256) : opField w = BitVec.ofNat 8 n ↔ w.toNat / 2 ^ 32 = n := by
  rw [← opField_toNat]
  constructor
  · intro h
    rw [h, BitVec.toNat_ofNat]
    exact Nat.mod_eq_of_lt hn
  · intro h
    apply BitVec.eq_of_toNat_eq
    rw [h, BitVec.toNat_ofNat]
    exact (Nat.mod_eq_of_lt hn).symm

theorem argField_eq_zero_iff (w : Word) : argField w = 0 ↔ w.toNat % 2 ^ 32 = 0 := by
  rw [← argField_toNat]
  exact ⟨fun h => by rw [h]; rfl, fun h => BitVec.eq_of_toNat_eq h⟩

theorem setReserved_eq_zero_iff (w : Word) :
    setReserved w = 0 ↔ w.toNat / 65536 % 65536 = 0 ∧ w.toNat / 2 % 128 = 0 := by
  have ht := setReserved_toNat w
  constructor
  · intro h
    rw [h, show (0 : BitVec 23).toNat = 0 from rfl] at ht
    omega
  · rintro ⟨h1, h2⟩
    apply BitVec.eq_of_toNat_eq
    rw [ht, h1, h2]
    rfl

/-- The decoder as arithmetic on the word's number. -/
theorem decode_eq (w : Word) : decode w =
    if w.toNat / 2 ^ 32 = 0 then (if w.toNat % 2 ^ 32 = 0 then .ok .init else .error .reservedBitSet)
    else if w.toNat / 2 ^ 32 = 1 then
      (if w.toNat / 65536 % 65536 = 0 ∧ w.toNat / 2 % 128 = 0 then .ok (.set (sigField w) (lvlField w))
       else .error .reservedBitSet)
    else if w.toNat / 2 ^ 32 = 2 then (if w.toNat % 2 ^ 32 = 0 then .ok .read else .error .reservedBitSet)
    else if w.toNat / 2 ^ 32 = 3 then (if w.toNat % 2 ^ 32 = 0 then .ok .pulse else .error .reservedBitSet)
    else if w.toNat / 2 ^ 32 = 4 then .ok (.wait (argField w))
    else .error .unassignedOpcode := by
  have g0 : opField w = 0x00 ↔ _ := opField_eq_iff w 0 (by decide)
  have g1 : opField w = 0x01 ↔ _ := opField_eq_iff w 1 (by decide)
  have g2 : opField w = 0x02 ↔ _ := opField_eq_iff w 2 (by decide)
  have g3 : opField w = 0x03 ↔ _ := opField_eq_iff w 3 (by decide)
  have g4 : opField w = 0x04 ↔ _ := opField_eq_iff w 4 (by decide)
  simp only [decode, decodePlain, g0, g1, g2, g3, g4, argField_eq_zero_iff, setReserved_eq_zero_iff]

end Sys2Proof
end

