-- ==== Sys2Proof/Laws/State.lean ====
section
/-! SUPPORT. The small lemmas of the state's named updates: one per field per update, and read-after-write of MODE and LVL. -/

namespace Sys2Proof.Machine

@[simp] theorem Modes.get_set_same (m : Modes) (s : Signal) (v : PinMode) : (m.set s v).get s = v := by
  cases s <;> rfl

theorem Modes.get_set_other (m : Modes) {s s' : Signal} (v : PinMode) (h : s' ≠ s) :
    (m.set s v).get s' = m.get s' := by
  cases s <;> cases s' <;> first | rfl | exact absurd rfl h

@[simp] theorem Latches.get_set_same (l : Latches) (o : OutSignal) (v : Level) : (l.set o v).get o = some v := by
  cases o <;> rfl

theorem Latches.get_set_other (l : Latches) {o o' : OutSignal} (v : Level) (h : o' ≠ o) :
    (l.set o v).get o' = l.get o' := by
  cases o <;> cases o' <;> first | rfl | exact absurd rfl h

@[simp] theorem Latches.set_set (l : Latches) (o : OutSignal) (v w : Level) : (l.set o v).set o w = l.set o w := by
  cases o <;> rfl

theorem Modes.allConfigured_iff (m : Modes) : m.allConfigured = true ↔ ∀ s, m.get s ≠ .unconf := by
  constructor
  · intro h s
    simp only [Modes.allConfigured, Bool.and_eq_true, bne_iff_ne] at h
    cases s
    · exact h.1.1.1
    · exact h.1.1.2
    · exact h.1.2
    · exact h.2
  · intro h
    simp only [Modes.allConfigured, Bool.and_eq_true, bne_iff_ne]
    exact ⟨⟨⟨h .tck, h .tms⟩, h .tdi⟩, h .tdo⟩

/-! ### The update `log` -/

@[simp] theorem State.log_cfg (s : State) (e : Event) : (s.log e).cfg = s.cfg := rfl
@[simp] theorem State.log_mode (s : State) (e : Event) : (s.log e).mode = s.mode := rfl
@[simp] theorem State.log_lvl (s : State) (e : Event) : (s.log e).lvl = s.lvl := rfl
@[simp] theorem State.log_busy (s : State) (e : Event) : (s.log e).busy = s.busy := rfl
@[simp] theorem State.log_cur (s : State) (e : Event) : (s.log e).cur = s.cur := rfl
@[simp] theorem State.log_cyc (s : State) (e : Event) : (s.log e).cyc = s.cyc := rfl
@[simp] theorem State.log_acc (s : State) (e : Event) : (s.log e).acc = s.acc := rfl
@[simp] theorem State.log_sub (s : State) (e : Event) : (s.log e).sub = s.sub := rfl
@[simp] theorem State.log_t0 (s : State) (e : Event) : (s.log e).t0 = s.t0 := rfl
@[simp] theorem State.log_tr (s : State) (e : Event) : (s.log e).tr = s.tr ++ [e] := rfl
@[simp] theorem State.log_pulseAt (s : State) (e : Event) : (s.log e).pulseAt = s.pulseAt := rfl
@[simp] theorem State.log_straps (s : State) (e : Event) : (s.log e).straps = s.straps := rfl
@[simp] theorem State.log_rst (s : State) (e : Event) : (s.log e).rst = s.rst := rfl
@[simp] theorem State.log_done (s : State) (e : Event) : (s.log e).done = s.done := rfl
@[simp] theorem State.log_rdata (s : State) (e : Event) : (s.log e).rdata = s.rdata := rfl
@[simp] theorem State.log_env (s : State) (e : Event) : (s.log e).env = s.env := rfl
@[simp] theorem State.log_prog (s : State) (e : Event) : (s.log e).prog = s.prog := rfl
@[simp] theorem State.log_cp (s : State) (e : Event) : (s.log e).cp = s.cp := rfl

/-! ### The update `atSub` -/

@[simp] theorem State.atSub_cfg (s : State) (n : BitVec 2) : (s.atSub n).cfg = s.cfg := rfl
@[simp] theorem State.atSub_mode (s : State) (n : BitVec 2) : (s.atSub n).mode = s.mode := rfl
@[simp] theorem State.atSub_lvl (s : State) (n : BitVec 2) : (s.atSub n).lvl = s.lvl := rfl
@[simp] theorem State.atSub_busy (s : State) (n : BitVec 2) : (s.atSub n).busy = s.busy := rfl
@[simp] theorem State.atSub_cur (s : State) (n : BitVec 2) : (s.atSub n).cur = s.cur := rfl
@[simp] theorem State.atSub_cyc (s : State) (n : BitVec 2) : (s.atSub n).cyc = s.cyc := rfl
@[simp] theorem State.atSub_acc (s : State) (n : BitVec 2) : (s.atSub n).acc = s.acc := rfl
@[simp] theorem State.atSub_sub (s : State) (n : BitVec 2) : (s.atSub n).sub = n := rfl
@[simp] theorem State.atSub_t0 (s : State) (n : BitVec 2) : (s.atSub n).t0 = s.t0 := rfl
@[simp] theorem State.atSub_tr (s : State) (n : BitVec 2) : (s.atSub n).tr = s.tr := rfl
@[simp] theorem State.atSub_pulseAt (s : State) (n : BitVec 2) : (s.atSub n).pulseAt = s.pulseAt := rfl
@[simp] theorem State.atSub_straps (s : State) (n : BitVec 2) : (s.atSub n).straps = s.straps := rfl
@[simp] theorem State.atSub_rst (s : State) (n : BitVec 2) : (s.atSub n).rst = s.rst := rfl
@[simp] theorem State.atSub_done (s : State) (n : BitVec 2) : (s.atSub n).done = s.done := rfl
@[simp] theorem State.atSub_rdata (s : State) (n : BitVec 2) : (s.atSub n).rdata = s.rdata := rfl
@[simp] theorem State.atSub_env (s : State) (n : BitVec 2) : (s.atSub n).env = s.env := rfl
@[simp] theorem State.atSub_prog (s : State) (n : BitVec 2) : (s.atSub n).prog = s.prog := rfl
@[simp] theorem State.atSub_cp (s : State) (n : BitVec 2) : (s.atSub n).cp = s.cp := rfl

/-! ### The update `markPulse` -/

@[simp] theorem State.markPulse_cfg (s : State) : s.markPulse.cfg = s.cfg := rfl
@[simp] theorem State.markPulse_mode (s : State) : s.markPulse.mode = s.mode := rfl
@[simp] theorem State.markPulse_lvl (s : State) : s.markPulse.lvl = s.lvl := rfl
@[simp] theorem State.markPulse_busy (s : State) : s.markPulse.busy = s.busy := rfl
@[simp] theorem State.markPulse_cur (s : State) : s.markPulse.cur = s.cur := rfl
@[simp] theorem State.markPulse_cyc (s : State) : s.markPulse.cyc = s.cyc := rfl
@[simp] theorem State.markPulse_acc (s : State) : s.markPulse.acc = s.acc := rfl
@[simp] theorem State.markPulse_sub (s : State) : s.markPulse.sub = s.sub := rfl
@[simp] theorem State.markPulse_t0 (s : State) : s.markPulse.t0 = s.t0 := rfl
@[simp] theorem State.markPulse_tr (s : State) : s.markPulse.tr = s.tr := rfl
@[simp] theorem State.markPulse_pulseAt (s : State) : s.markPulse.pulseAt = s.pulseAt ++ [s.tr.length] := rfl
@[simp] theorem State.markPulse_straps (s : State) : s.markPulse.straps = s.straps := rfl
@[simp] theorem State.markPulse_rst (s : State) : s.markPulse.rst = s.rst := rfl
@[simp] theorem State.markPulse_done (s : State) : s.markPulse.done = s.done := rfl
@[simp] theorem State.markPulse_rdata (s : State) : s.markPulse.rdata = s.rdata := rfl
@[simp] theorem State.markPulse_env (s : State) : s.markPulse.env = s.env := rfl
@[simp] theorem State.markPulse_prog (s : State) : s.markPulse.prog = s.prog := rfl
@[simp] theorem State.markPulse_cp (s : State) : s.markPulse.cp = s.cp := rfl

/-! ### The update `accept` -/

@[simp] theorem accept_cfg (s : State) (i : Instr) : (accept i s).cfg = s.cfg := rfl
@[simp] theorem accept_mode (s : State) (i : Instr) : (accept i s).mode = s.mode := rfl
@[simp] theorem accept_lvl (s : State) (i : Instr) : (accept i s).lvl = s.lvl := rfl
@[simp] theorem accept_busy (s : State) (i : Instr) : (accept i s).busy = true := rfl
@[simp] theorem accept_cur (s : State) (i : Instr) : (accept i s).cur = encode i := rfl
@[simp] theorem accept_cyc (s : State) (i : Instr) : (accept i s).cyc = s.cyc := rfl
@[simp] theorem accept_acc (s : State) (i : Instr) : (accept i s).acc = s.acc := rfl
@[simp] theorem accept_sub (s : State) (i : Instr) : (accept i s).sub = s.sub := rfl
@[simp] theorem accept_t0 (s : State) (i : Instr) : (accept i s).t0 = s.t0 := rfl
@[simp] theorem accept_tr (s : State) (i : Instr) : (accept i s).tr = s.tr := rfl
@[simp] theorem accept_pulseAt (s : State) (i : Instr) : (accept i s).pulseAt = s.pulseAt := rfl
@[simp] theorem accept_straps (s : State) (i : Instr) : (accept i s).straps = s.straps := rfl
@[simp] theorem accept_rst (s : State) (i : Instr) : (accept i s).rst = s.rst := rfl
@[simp] theorem accept_done (s : State) (i : Instr) : (accept i s).done = false := rfl
@[simp] theorem accept_rdata (s : State) (i : Instr) : (accept i s).rdata = none := rfl
@[simp] theorem accept_env (s : State) (i : Instr) : (accept i s).env = s.env := rfl
@[simp] theorem accept_prog (s : State) (i : Instr) : (accept i s).prog = s.prog := rfl
@[simp] theorem accept_cp (s : State) (i : Instr) : (accept i s).cp = s.cp := rfl

/-! ### The update `completed` -/

@[simp] theorem State.completed_cfg (s : State) (i : Instr) (k : Nat) (r : Option Level) : (s.completed i k r).cfg = s.cfg := rfl
@[simp] theorem State.completed_mode (s : State) (i : Instr) (k : Nat) (r : Option Level) : (s.completed i k r).mode = s.mode := rfl
@[simp] theorem State.completed_lvl (s : State) (i : Instr) (k : Nat) (r : Option Level) : (s.completed i k r).lvl = s.lvl := rfl
@[simp] theorem State.completed_busy (s : State) (i : Instr) (k : Nat) (r : Option Level) : (s.completed i k r).busy = false := rfl
@[simp] theorem State.completed_cur (s : State) (i : Instr) (k : Nat) (r : Option Level) : (s.completed i k r).cur = encode i := rfl
@[simp] theorem State.completed_cyc (s : State) (i : Instr) (k : Nat) (r : Option Level) : (s.completed i k r).cyc = s.cyc := rfl
@[simp] theorem State.completed_acc (s : State) (i : Instr) (k : Nat) (r : Option Level) : (s.completed i k r).acc = s.acc := rfl
@[simp] theorem State.completed_sub (s : State) (i : Instr) (k : Nat) (r : Option Level) : (s.completed i k r).sub = s.sub := rfl
@[simp] theorem State.completed_t0 (s : State) (i : Instr) (k : Nat) (r : Option Level) : (s.completed i k r).t0 = s.t0 := rfl
@[simp] theorem State.completed_tr (s : State) (i : Instr) (k : Nat) (r : Option Level) : (s.completed i k r).tr = s.tr := rfl
@[simp] theorem State.completed_pulseAt (s : State) (i : Instr) (k : Nat) (r : Option Level) : (s.completed i k r).pulseAt = s.pulseAt := rfl
@[simp] theorem State.completed_straps (s : State) (i : Instr) (k : Nat) (r : Option Level) : (s.completed i k r).straps = s.straps := rfl
@[simp] theorem State.completed_rst (s : State) (i : Instr) (k : Nat) (r : Option Level) : (s.completed i k r).rst = s.rst := rfl
@[simp] theorem State.completed_done (s : State) (i : Instr) (k : Nat) (r : Option Level) : (s.completed i k r).done = true := rfl
@[simp] theorem State.completed_rdata (s : State) (i : Instr) (k : Nat) (r : Option Level) : (s.completed i k r).rdata = r := rfl
@[simp] theorem State.completed_env (s : State) (i : Instr) (k : Nat) (r : Option Level) : (s.completed i k r).env = s.env.after k := rfl
@[simp] theorem State.completed_prog (s : State) (i : Instr) (k : Nat) (r : Option Level) : (s.completed i k r).prog = s.prog := rfl
@[simp] theorem State.completed_cp (s : State) (i : Instr) (k : Nat) (r : Option Level) : (s.completed i k r).cp = s.cp + 1 := rfl

/-! ### The update `underway` -/

@[simp] theorem State.underway_cfg (s : State) (i : Instr) (k : Nat) : (s.underway i k).cfg = s.cfg := rfl
@[simp] theorem State.underway_mode (s : State) (i : Instr) (k : Nat) : (s.underway i k).mode = s.mode := rfl
@[simp] theorem State.underway_lvl (s : State) (i : Instr) (k : Nat) : (s.underway i k).lvl = s.lvl := rfl
@[simp] theorem State.underway_busy (s : State) (i : Instr) (k : Nat) : (s.underway i k).busy = true := rfl
@[simp] theorem State.underway_cur (s : State) (i : Instr) (k : Nat) : (s.underway i k).cur = encode i := rfl
@[simp] theorem State.underway_cyc (s : State) (i : Instr) (k : Nat) : (s.underway i k).cyc = s.cyc := rfl
@[simp] theorem State.underway_acc (s : State) (i : Instr) (k : Nat) : (s.underway i k).acc = s.acc := rfl
@[simp] theorem State.underway_sub (s : State) (i : Instr) (k : Nat) : (s.underway i k).sub = s.sub := rfl
@[simp] theorem State.underway_t0 (s : State) (i : Instr) (k : Nat) : (s.underway i k).t0 = s.t0 := rfl
@[simp] theorem State.underway_tr (s : State) (i : Instr) (k : Nat) : (s.underway i k).tr = s.tr := rfl
@[simp] theorem State.underway_pulseAt (s : State) (i : Instr) (k : Nat) : (s.underway i k).pulseAt = s.pulseAt := rfl
@[simp] theorem State.underway_straps (s : State) (i : Instr) (k : Nat) : (s.underway i k).straps = s.straps := rfl
@[simp] theorem State.underway_rst (s : State) (i : Instr) (k : Nat) : (s.underway i k).rst = s.rst := rfl
@[simp] theorem State.underway_done (s : State) (i : Instr) (k : Nat) : (s.underway i k).done = false := rfl
@[simp] theorem State.underway_rdata (s : State) (i : Instr) (k : Nat) : (s.underway i k).rdata = none := rfl
@[simp] theorem State.underway_env (s : State) (i : Instr) (k : Nat) : (s.underway i k).env = s.env.after k := rfl
@[simp] theorem State.underway_prog (s : State) (i : Instr) (k : Nat) : (s.underway i k).prog = s.prog := rfl
@[simp] theorem State.underway_cp (s : State) (i : Instr) (k : Nat) : (s.underway i k).cp = s.cp := rfl

/-! ### The update `logged` -/

@[simp] theorem State.logged_cfg (s : State) (events : List Event) : (s.logged events).cfg = s.cfg := rfl
@[simp] theorem State.logged_mode (s : State) (events : List Event) : (s.logged events).mode = s.mode := rfl
@[simp] theorem State.logged_lvl (s : State) (events : List Event) : (s.logged events).lvl = s.lvl := rfl
@[simp] theorem State.logged_busy (s : State) (events : List Event) : (s.logged events).busy = s.busy := rfl
@[simp] theorem State.logged_cur (s : State) (events : List Event) : (s.logged events).cur = s.cur := rfl
@[simp] theorem State.logged_cyc (s : State) (events : List Event) : (s.logged events).cyc = s.cyc := rfl
@[simp] theorem State.logged_acc (s : State) (events : List Event) : (s.logged events).acc = s.acc := rfl
@[simp] theorem State.logged_sub (s : State) (events : List Event) : (s.logged events).sub = s.sub := rfl
@[simp] theorem State.logged_t0 (s : State) (events : List Event) : (s.logged events).t0 = s.t0 := rfl
@[simp] theorem State.logged_tr (s : State) (events : List Event) : (s.logged events).tr = s.tr ++ events := rfl
@[simp] theorem State.logged_pulseAt (s : State) (events : List Event) : (s.logged events).pulseAt = s.pulseAt := rfl
@[simp] theorem State.logged_straps (s : State) (events : List Event) : (s.logged events).straps = s.straps := rfl
@[simp] theorem State.logged_rst (s : State) (events : List Event) : (s.logged events).rst = s.rst := rfl
@[simp] theorem State.logged_done (s : State) (events : List Event) : (s.logged events).done = s.done := rfl
@[simp] theorem State.logged_rdata (s : State) (events : List Event) : (s.logged events).rdata = s.rdata := rfl
@[simp] theorem State.logged_env (s : State) (events : List Event) : (s.logged events).env = s.env := rfl
@[simp] theorem State.logged_prog (s : State) (events : List Event) : (s.logged events).prog = s.prog := rfl
@[simp] theorem State.logged_cp (s : State) (events : List Event) : (s.logged events).cp = s.cp := rfl

/-! ### The update `pulsed` -/

@[simp] theorem State.pulsed_cfg (s : State) (n : Nat) : (s.pulsed n).cfg = s.cfg := rfl
@[simp] theorem State.pulsed_mode (s : State) (n : Nat) : (s.pulsed n).mode = s.mode := rfl
@[simp] theorem State.pulsed_lvl (s : State) (n : Nat) : (s.pulsed n).lvl = if n = 0 then s.lvl else s.lvl.set .tck 1 := rfl
@[simp] theorem State.pulsed_busy (s : State) (n : Nat) : (s.pulsed n).busy = s.busy := rfl
@[simp] theorem State.pulsed_cur (s : State) (n : Nat) : (s.pulsed n).cur = s.cur := rfl
@[simp] theorem State.pulsed_cyc (s : State) (n : Nat) : (s.pulsed n).cyc = s.cyc := rfl
@[simp] theorem State.pulsed_acc (s : State) (n : Nat) : (s.pulsed n).acc = s.acc := rfl
@[simp] theorem State.pulsed_sub (s : State) (n : Nat) : (s.pulsed n).sub = if n = 0 then s.sub else 3 := rfl
@[simp] theorem State.pulsed_t0 (s : State) (n : Nat) : (s.pulsed n).t0 = s.t0 := rfl
@[simp] theorem State.pulsed_tr (s : State) (n : Nat) : (s.pulsed n).tr = s.tr ++ pulseTrain n := rfl
@[simp] theorem State.pulsed_pulseAt (s : State) (n : Nat) : (s.pulsed n).pulseAt = s.pulseAt ++ pulseStarts s.tr.length 4 n := rfl
@[simp] theorem State.pulsed_straps (s : State) (n : Nat) : (s.pulsed n).straps = s.straps := rfl
@[simp] theorem State.pulsed_rst (s : State) (n : Nat) : (s.pulsed n).rst = s.rst := rfl
@[simp] theorem State.pulsed_done (s : State) (n : Nat) : (s.pulsed n).done = s.done := rfl
@[simp] theorem State.pulsed_rdata (s : State) (n : Nat) : (s.pulsed n).rdata = s.rdata := rfl
@[simp] theorem State.pulsed_env (s : State) (n : Nat) : (s.pulsed n).env = s.env := rfl
@[simp] theorem State.pulsed_prog (s : State) (n : Nat) : (s.pulsed n).prog = s.prog := rfl
@[simp] theorem State.pulsed_cp (s : State) (n : Nat) : (s.pulsed n).cp = s.cp := rfl

end Sys2Proof.Machine
end

