-- ==== Sys2Proof/Laws/Ops.lean ====
section
/-! SUPPORT. One lemma per shared operation, saying everything it does while `rst` is not going to be asserted, and one
saying that it does nothing once `rst` is asserted. Proofs about commands cite these and unfold no operation. -/

namespace Sys2Proof.Machine

/-! ### The environment -/

@[simp] theorem Env.after_zero (e : Env) : e.after 0 = e := rfl

theorem Env.after_succ (e : Env) (n : Nat) : e.after (n + 1) = e.move.after n := rfl

theorem Env.after_after (e : Env) (m n : Nat) : (e.after m).after n = e.after (m + n) := by
  induction m generalizing e with
  | zero => simp
  | succ m ih => rw [Env.after_succ, ih, Nat.succ_add, Env.after_succ]

theorem Env.move_after (e : Env) (n : Nat) : (e.after n).move = e.after (n + 1) :=
  Env.after_after e n 1

theorem Env.after_one (e : Env) : e.after 1 = e.move := rfl

/-- The clock never decreases (R36). -/
theorem Env.now_le_after (e : Env) (n : Nat) : e.now ≤ (e.after n).now := by
  induction n generalizing e with
  | zero => simp
  | succ n ih =>
    rw [Env.after_succ]
    exact Nat.le_trans (Nat.le_add_right _ _) (ih e.move)

theorem Env.after_mono (e : Env) {m n : Nat} (h : m ≤ n) : (e.after m).now ≤ (e.after n).now := by
  obtain ⟨k, rfl⟩ := Nat.exists_eq_add_of_le h
  rw [← Env.after_after]
  exact Env.now_le_after _ _

/-- The environment after `n` of at least `n` equal moves queued. -/
theorem Env.after_replicate {n total : Nat} {m : EnvMove} {e : Env} (h : e.script = List.replicate total m) (hn : n ≤ total) :
    (e.after n).script = List.replicate (total - n) m ∧ (e.after n).now = e.now + n * m.advance := by
  induction n with
  | zero => simp [h]
  | succ n ih =>
    obtain ⟨hs, ht⟩ := ih (by omega)
    obtain ⟨k, hk⟩ : ∃ k, total - n = k + 1 := ⟨total - n - 1, by omega⟩
    rw [hk, List.replicate_succ] at hs
    rw [← Env.move_after]
    refine ⟨?_, ?_⟩
    · simp only [Env.move, hs, List.tail_cons]
      congr 1
      omega
    · simp only [Env.move, Env.next, hs, ht, Nat.succ_mul]
      omega

/-! ### Micro-operations -/

theorem microOp_running (f : State → State) {s : State} (h : s.rst = none) :
    microOp f s = f { s with env := s.env.move } := by
  simp only [microOp, h]

theorem microOp_before_reset (f : State → State) {s : State} {k : Nat} (h : s.rst = some (k + 1)) :
    microOp f s = f { s with rst := some k, env := s.env.move } := by
  simp only [microOp, h]

theorem microOp_in_reset (f : State → State) {s : State} (h : s.rst = some 0) : microOp f s = s := by
  simp only [microOp, h]

theorem configurePin_running (sig : Signal) (m : PinMode) {s : State} (h : s.rst = none) :
    configurePin sig m s =
      { s with env := s.env.move, mode := s.mode.set sig m, tr := s.tr ++ [.cfg sig m] } := by
  rw [configurePin, microOp_running _ h]; rfl

theorem padWrite_running (o : OutSignal) (v : Level) {s : State} (h : s.rst = none) :
    padWrite o v s = { s with env := s.env.move, lvl := s.lvl.set o v, tr := s.tr ++ [.write o v] } := by
  rw [padWrite, microOp_running _ h]; rfl

theorem settle_running {s : State} (h : s.rst = none) :
    settle s = { s with env := s.env.move, tr := s.tr ++ [.settle] } := by
  rw [settle, microOp_running _ h]; rfl

theorem padSample_running {s : State} (h : s.rst = none) :
    padSample s = (sampledLevel s.env.move.tdo,
      { s with env := s.env.move, tr := s.tr ++ [.sample (sampledLevel s.env.move.tdo)] }) := by
  rw [padSample, microOp_running _ h]; rfl

theorem readClock_running {s : State} (h : s.rst = none) :
    readClock s = (s.env.move.now, { s with env := s.env.move, tr := s.tr ++ [.now s.env.move.now] }) := by
  rw [readClock, microOp_running _ h]; rfl

theorem sleepCall_running (ms : BitVec 23) {s : State} (h : s.rst = none) :
    sleepCall ms s = { s with env := s.env.move, tr := s.tr ++ [.sleep ms.toNat] } := by
  rw [sleepCall, microOp_running _ h]; rfl

/-! ### INIT's calls -/

/-- Each order names every line once (R91). -/
theorem signalOrder_perm (n : Nat) : (signalOrder n).Perm [.tck, .tms, .tdi, .tdo] := by
  have h : ∀ a : Fin 4, ∀ b : Fin 3, ∀ c : Fin 2, (orderFrom a b c).Perm [.tck, .tms, .tdi, .tdo] := by decide
  exact h ⟨n % 4, Nat.mod_lt _ (by decide)⟩ ⟨n / 4 % 3, Nat.mod_lt _ (by decide)⟩ ⟨n / 12 % 2, Nat.mod_lt _ (by decide)⟩

/-- The calls leave the modes R90 lists, in whatever order they come (R91). -/
theorem modes_of_signalOrder (n : Nat) (m : Modes) :
    (signalOrder n).foldl (fun m sig => m.set sig (initMode sig)) m = .configured := by
  have h : ∀ a : Fin 4, ∀ b : Fin 3, ∀ c : Fin 2,
      (orderFrom a b c).foldl (fun m sig => m.set sig (initMode sig)) m = .configured := by
    intro a b c
    fin_cases a <;> fin_cases b <;> fin_cases c <;> rfl
  exact h ⟨n % 4, Nat.mod_lt _ (by decide)⟩ ⟨n / 4 % 3, Nat.mod_lt _ (by decide)⟩ ⟨n / 12 % 2, Nat.mod_lt _ (by decide)⟩

theorem configure_list_running (l : List Signal) {s : State} (h : s.rst = none) :
    l.foldl (fun s sig => configurePin sig (initMode sig) s) s =
      { s with
        env := s.env.after l.length
        mode := l.foldl (fun m sig => m.set sig (initMode sig)) s.mode
        tr := s.tr ++ l.map fun sig => .cfg sig (initMode sig) } := by
  induction l generalizing s with
  | nil => simp
  | cons sig l ih =>
    rw [List.foldl_cons, configurePin_running _ _ h, ih (by exact h)]
    simp [Env.after_succ]

/-- INIT's four calls (R90, R91). -/
theorem configureAll_running (n : Nat) {s : State} (h : s.rst = none) :
    configureAll n s =
      { s with
        env := s.env.after 4
        mode := .configured
        tr := s.tr ++ (signalOrder n).map fun sig => .cfg sig (initMode sig) } := by
  rw [configureAll, configure_list_running _ h, modes_of_signalOrder]
  rfl

/-! ### Procedures -/

theorem setSignal_tck (v : Level) {s : State} (h : s.rst = none) :
    setSignal 0 v s =
      { s with env := s.env.after 2, lvl := s.lvl.set .tck v, tr := s.tr ++ [.write .tck v, .settle] } := by
  have hc : signalOfCode 0 = some .tck := by decide
  simp only [setSignal, hc]
  rw [padWrite_running _ _ h, settle_running (by exact h)]
  simp [Env.after_succ]

theorem setSignal_tms (v : Level) {s : State} (h : s.rst = none) :
    setSignal 1 v s = { s with env := s.env.after 1, lvl := s.lvl.set .tms v, tr := s.tr ++ [.write .tms v] } := by
  have hc : signalOfCode 1 = some .tms := by decide
  simp only [setSignal, hc]
  rw [padWrite_running _ _ h]; rfl

theorem setSignal_tdi (v : Level) {s : State} (h : s.rst = none) :
    setSignal 2 v s = { s with env := s.env.after 1, lvl := s.lvl.set .tdi v, tr := s.tr ++ [.write .tdi v] } := by
  have hc : signalOfCode 2 = some .tdi := by decide
  simp only [setSignal, hc]
  rw [padWrite_running _ _ h]; rfl

theorem setSignal_no_effect {sig : BitVec 8} (h : 3 ≤ sig.toNat) (v : Level) (s : State) :
    setSignal sig v s = s := by
  have hc : signalOfCode sig = some .tdo ∨ signalOfCode sig = none := by
    have hne : ∀ n : Nat, n < 3 → sig ≠ BitVec.ofNat 8 n := by
      intro n hn he
      rw [he, BitVec.toNat_ofNat] at h
      omega
    simp only [signalOfCode]
    have h0 := hne 0 (by decide)
    have h1 := hne 1 (by decide)
    have h2 := hne 2 (by decide)
    split_ifs with g0 g1 g2
    · exact absurd g0 h0
    · exact absurd g1 h1
    · exact absurd g2 h2
    · exact .inl rfl
    · exact .inr rfl
  rcases hc with hc | hc <;> simp only [setSignal, hc]

/-- One pulse (R110). -/
theorem pulseClock_running {s : State} (h : s.rst = none) :
    pulseClock s = { s.pulsed 1 with env := s.env.after 4 } := by
  simp [pulseClock, padWrite_running, settle_running, h, Env.after_succ, State.pulsed, State.atSub, State.markPulse,
    pulseTrain, pulseEvents, pulseStarts]

theorem pulseTrain_add (m n : Nat) : pulseTrain (m + n) = pulseTrain m ++ pulseTrain n := by
  induction m with
  | zero => simp [pulseTrain]
  | succ m ih => rw [Nat.succ_add, pulseTrain, pulseTrain, ih, List.append_assoc]

theorem pulseTrain_length (n : Nat) : (pulseTrain n).length = 4 * n := by
  induction n with
  | zero => rfl
  | succ n ih =>
    rw [pulseTrain, List.length_append, ih, show pulseEvents.length = 4 from rfl]
    omega

theorem pulseStarts_add (at0 gap m n : Nat) :
    pulseStarts at0 gap (m + n) = pulseStarts at0 gap m ++ pulseStarts (at0 + gap * m) gap n := by
  induction m generalizing at0 with
  | zero => simp [pulseStarts]
  | succ m ih =>
    rw [Nat.succ_add, pulseStarts, pulseStarts, ih, Nat.mul_succ, Nat.add_assoc at0, Nat.add_comm gap]
    rfl

theorem State.pulsed_pulsed (s : State) (m n : Nat) : (s.pulsed m).pulsed n = s.pulsed (m + n) := by
  have hs : pulseStarts s.tr.length 4 (m + n) =
      pulseStarts s.tr.length 4 m ++ pulseStarts (s.tr.length + 4 * m) 4 n := pulseStarts_add _ _ _ _
  by_cases hm : m = 0 <;> by_cases hn : n = 0 <;>
    simp [State.pulsed, hm, hn, hs, pulseTrain_add, pulseTrain_length, pulseTrain, pulseStarts]

/-- The pulse loop with `k` pulses to go makes exactly `k` (R123, R139). -/
theorem pulseWhile_running (k : Nat) {s : State} (h : s.rst = none) (hk : s.acc.toNat + k = s.cyc.toNat) :
    pulseWhile k s = { s.pulsed k with env := s.env.after (4 * k), acc := s.cyc } := by
  induction k generalizing s with
  | zero =>
    have ha : s.acc = s.cyc := BitVec.eq_of_toNat_eq (by simpa using hk)
    cases s
    simp_all [pulseWhile, State.pulsed, pulseTrain, pulseStarts]
  | succ k ih =>
    have hne : s.acc ≠ s.cyc := fun he => by rw [he] at hk; omega
    have hlt := s.cyc.isLt
    have hacc : (s.acc + 1).toNat = s.acc.toNat + 1 := by
      rw [BitVec.toNat_add, show (1 : BitVec 48).toNat = 1 from rfl]
      exact Nat.mod_eq_of_lt (by omega)
    simp only [pulseWhile, if_neg hne, countedPulse]
    rw [pulseClock_running h]
    have hstep : pulseWhile k { s.pulsed 1 with env := s.env.after 4, acc := s.acc + 1 } = _ :=
      ih (s := { s.pulsed 1 with env := s.env.after 4, acc := s.acc + 1 }) (by exact h)
        (by show (s.acc + 1).toNat + k = s.cyc.toNat; omega)
    refine hstep.trans ?_
    have hp := State.pulsed_pulsed s 1 k
    simp only [State.pulsed, State.mk.injEq] at hp
    simp only [State.pulsed, Env.after_after, State.mk.injEq, true_and, and_true]
    refine ⟨?_, ?_, ?_, ?_, ?_⟩
    · rw [hp.2.2.1, Nat.add_comm 1 k]
    · rw [hp.2.2.2.2.2.2.2.1, Nat.add_comm 1 k]
    · rw [hp.2.2.2.2.2.2.2.2.2.1, Nat.add_comm 1 k]
    · rw [hp.2.2.2.2.2.2.2.2.2.2.1, Nat.add_comm 1 k]
    · rw [show 4 + 4 * k = 4 * (k + 1) by omega]

/-- The counted pulse loop of strategies 1 and 3 (R123, R129). -/
theorem countedPulses_running (n : BitVec 48) {s : State} (h : s.rst = none) :
    countedPulses n s =
      { s.pulsed n.toNat with env := s.env.after (4 * n.toNat), cyc := n, acc := n } := by
  have h0 : ({ s with cyc := n, acc := 0 } : State).acc.toNat + n.toNat = n.toNat := Nat.zero_add _
  exact pulseWhile_running n.toNat (s := { s with cyc := n, acc := 0 }) h h0

/-! ### Commands -/

theorem issue_busy (i : Instr) (run : State → Host.Outcome State Fault Refusal) {s : State} (h : s.busy = true) :
    issue i run s = .next s := by
  simp only [issue, h, if_true]

theorem issue_admitted (i : Instr) (run : State → Host.Outcome State Fault Refusal) {s : State} (hb : s.busy = false)
    (ha : s.admits i = true) : issue i run s = run (accept i s) := by
  simp only [issue, hb, ha, if_true, Bool.false_eq_true, if_false]

theorem issue_not_admitted (i : Instr) (run : State → Host.Outcome State Fault Refusal) {s : State}
    (hb : s.busy = false) (ha : s.admits i = false) : issue i run s = .refused .pinsUnconfigured := by
  simp only [issue, hb, ha, Bool.false_eq_true, if_false]

theorem State.admits_of_allConfigured (i : Instr) {s : State} (h : s.mode.allConfigured = true) :
    s.admits i = true := by
  cases i <;> first | rfl | exact h

theorem finish_running (r : Option Level) {s : State} (h : s.rst = none) :
    finish r s = .next { s with busy := false, done := true, rdata := r, cp := s.cp + 1 } := by
  simp only [finish, State.inReset, h]
  rfl

theorem suspend_running {s : State} (h : s.rst = none) : suspend s = .next s := by
  simp only [suspend, State.inReset, h]
  rfl

/-- One iteration of strategy 2's loop (R126): one pulse and one reading of the clock, which decides how it ends. -/
theorem timerIteration_running (d : BitVec 32) {s : State} (h : s.rst = none) :
    timerIteration d s =
      if d.toNat ≤ (s.env.after 5).now - s.t0 then
        finish none { (s.pulsed 1).logged [.now (s.env.after 5).now] with env := s.env.after 5 }
      else suspend { (s.pulsed 1).logged [.now (s.env.after 5).now] with env := s.env.after 5 } := by
  simp only [timerIteration]
  rw [pulseClock_running h, readClock_running (by exact h)]
  simp [waitElapsed, Env.move_after, State.logged]

/-- A block asleep (R132, R164): the environment moves, and says whether the command is at its end. -/
theorem sleepPoll_running {s : State} (h : s.rst = none) :
    sleepPoll s =
      if s.env.next.wake then finish none { s with env := s.env.move } else suspend { s with env := s.env.move } := by
  simp only [sleepPoll, State.inReset, h, microOp_running _ h]
  rfl

theorem finish_in_reset (r : Option Level) {s : State} (h : s.rst = some 0) : finish r s = resetEvent s := by
  simp only [finish, State.inReset, h, beq_self_eq_true, if_true]

theorem suspend_in_reset {s : State} (h : s.rst = some 0) : suspend s = resetEvent s := by
  simp only [suspend, State.inReset, h, beq_self_eq_true, if_true]

end Sys2Proof.Machine
end

