-- ==== Sys2Proof/Laws/PerInstr.lean ====
section
/-! SUPPORT. Statements made for each instruction, one lemma per constructor: the word the encoder gives lies in the
instruction's own row of the opcode table (R73 to R77). -/

namespace Sys2Proof.Laws.TableRow

/-- The encoded word agrees with the row's match pattern on the row's mask. -/
def Statement (i : Instr) : Prop := encode i &&& tableMask i = tableMatch i

theorem init : Statement .init := by unfold Statement; decide

theorem set (sig : BitVec 8) (lvl : BitVec 1) : Statement (.set sig lvl) := by
  have bits : ∀ k, (encode (.set sig lvl)).getLsbD k =
      if k < 32 then ((0 : BitVec 16) ++ sig ++ (0 : BitVec 7) ++ lvl).getLsbD k else (0x01 : BitVec 8).getLsbD (k - 32) :=
    fun _ => BitVec.getLsbD_append
  apply BitVec.eq_of_getLsbD_eq
  intro k hk
  rw [BitVec.getLsbD_and, bits]
  simp only [tableMask, tableMatch, BitVec.getLsbD_append]
  interval_cases k <;> simp

theorem read : Statement .read := by unfold Statement; decide

theorem pulse : Statement .pulse := by unfold Statement; decide

theorem wait (dur : BitVec 32) : Statement (.wait dur) := by
  have bits : ∀ k, (encode (.wait dur)).getLsbD k = if k < 32 then dur.getLsbD k else (0x04 : BitVec 8).getLsbD (k - 32) :=
    fun _ => BitVec.getLsbD_append
  apply BitVec.eq_of_getLsbD_eq
  intro k hk
  rw [BitVec.getLsbD_and, bits]
  simp only [tableMask, tableMatch]
  interval_cases k <;> simp

end Sys2Proof.Laws.TableRow
end

