-- ==== Sys2Proof/Laws/Reset.lean ====
section
/-! SUPPORT. What `rst` does to an operation (R176): once asserted, no further micro-operation happens; asserted later than the
operation's last move, it changes nothing but its own countdown. Said once for all operations, as `Cuts`. -/

namespace Sys2Proof.Machine

/-- `s` with `rst` asserted as `r` says. -/
def State.withRst (s : State) (r : Option Nat) : State := { s with rst := r }

theorem State.withRst_self {s : State} {r : Option Nat} (h : s.rst = r) : s.withRst r = s := by
  subst h; rfl

/-- `F` makes `n` moves of the environment, leaves the straps and the host's list alone, and is cut short by `rst`. -/
structure Cuts (n : Nat) (F : State → State) : Prop where
  straps : ∀ s, (F s).straps = s.straps
  prog : ∀ s, (F s).prog = s.prog
  run : ∀ s, s.rst = none → (F s).rst = none ∧ (F s).env = s.env.after n
  cut : ∀ s k, s.rst = some k → k < n → (F s).rst = some 0 ∧ (F s).env = s.env.after k
  late : ∀ s k, s.rst = some k → n ≤ k → F s = (F (s.withRst none)).withRst (some (k - n))

/-- Each micro-operation takes one move and is cut short before it or not at all. -/
theorem cuts_microOp (f : State → State) (h1 : ∀ s, (f s).straps = s.straps) (h2 : ∀ s, (f s).prog = s.prog)
    (h3 : ∀ s, (f s).env = s.env) (h4 : ∀ s r, f (s.withRst r) = (f s).withRst r) : Cuts 1 (microOp f) where
  straps s := by unfold microOp; split <;> simp [h1]
  prog s := by unfold microOp; split <;> simp [h2]
  run s h := by
    rw [microOp_running _ h]
    constructor
    · have := h4 { s with env := s.env.move } none
      rw [State.withRst_self (show ({ s with env := s.env.move } : State).rst = none from h)] at this
      rw [this]; rfl
    · rw [h3]; rfl
  cut s k h hk := by
    obtain rfl : k = 0 := by omega
    rw [microOp_in_reset _ h]; exact ⟨h, rfl⟩
  late s k h hk := by
    obtain ⟨k, rfl⟩ : ∃ j, k = j + 1 := ⟨k-1, by omega⟩
    rw [microOp_before_reset _ h, microOp_running _ rfl]
    have := h4 { s with env := s.env.move } (some k)
    have e2 := h4 { s with env := s.env.move } none
    refine this.trans ?_
    refine Eq.trans ?_ (congrArg (fun x : State => x.withRst (some k)) e2.symm)
    rfl

/-- One operation after another. -/
theorem Cuts.comp {m n F G} (hF : Cuts m F) (hG : Cuts n G) : Cuts (m + n) (fun s => G (F s)) where
  straps s := by rw [hG.straps, hF.straps]
  prog s := by rw [hG.prog, hF.prog]
  run s h := by
    have a := hF.run s h
    have b := hG.run _ a.1
    exact ⟨b.1, by rw [b.2, a.2, Env.after_after]⟩
  cut s k h hk := by
    by_cases hm : k < m
    · have a := hF.cut s k h hm
      by_cases hn : 0 < n
      · have b := hG.cut _ 0 a.1 hn
        exact ⟨b.1, by rw [b.2, a.2]; rfl⟩
      · have hn : n = 0 := by omega
        have b := hG.late _ 0 a.1 (by omega)
        have c := hG.run ((F s).withRst none) rfl
        rw [b]; exact ⟨by subst hn; rfl, c.2.trans (by subst hn; exact a.2)⟩
    · have a := hF.late s k h (by omega)
      have c := hF.run (s.withRst none) rfl
      have b := hG.cut (F s) (k - m) (by rw [a]; rfl) (by omega)
      refine ⟨b.1, ?_⟩
      rw [b.2, a]
      have : ((F (s.withRst none)).withRst (some (k - m))).env = s.env.after m := c.2
      rw [this, Env.after_after]; congr 1; omega
  late s k h hk := by
    have a := hF.late s k h (by omega)
    have c := hF.run (s.withRst none) rfl
    have b := hG.late (F s) (k - m) (by rw [a]; rfl) (by omega)
    have : (F s).withRst none = F (s.withRst none) := by
      rw [a]; exact State.withRst_self c.1
    rw [b, this, Nat.sub_sub]

/-- A register update between micro-operations takes no move. -/
theorem cuts_update (f : State → State) (h1 : ∀ s, (f s).straps = s.straps) (h2 : ∀ s, (f s).prog = s.prog)
    (h3 : ∀ s, (f s).env = s.env) (h5 : ∀ s, (f s).rst = s.rst) (h4 : ∀ s r, f (s.withRst r) = (f s).withRst r) : Cuts 0 f where
  straps := h1
  prog := h2
  run s h := ⟨by rw [h5, h], h3 s⟩
  cut s k h hk := by omega
  late s k h hk := by
    rw [h4]; exact (State.withRst_self (s := f s) (by rw [h5, h]; rfl)).symm

theorem cuts_configurePin (g m) : Cuts 1 (configurePin g m) := by
  apply cuts_microOp <;> intros <;> rfl

theorem cuts_padWrite (g m) : Cuts 1 (padWrite g m) := by
  apply cuts_microOp <;> intros <;> rfl

theorem cuts_settle : Cuts 1 settle := by
  apply cuts_microOp <;> intros <;> rfl

theorem cuts_sleepCall (ms) : Cuts 1 (sleepCall ms) := by
  apply cuts_microOp <;> intros <;> rfl

theorem cuts_sleepPoll : Cuts 1 (microOp id) := by
  apply cuts_microOp <;> intros <;> rfl

theorem cuts_padSample : Cuts 1 (fun s => (padSample s).2) := by
  apply cuts_microOp (fun s => s.log (.sample (sampledLevel s.env.tdo))) <;> intros <;> rfl

theorem cuts_readClock : Cuts 1 (fun s => (readClock s).2) := by
  apply cuts_microOp (fun s => s.log (.now s.env.now)) <;> intros <;> rfl

theorem cuts_configureAll (n) : Cuts 4 (configureAll n) := by
  have h : ∀ l : List Signal, Cuts l.length (fun s => l.foldl (fun s sig => configurePin sig (initMode sig) s) s) := by
    intro l
    induction l with
    | nil => apply cuts_update <;> intros <;> rfl
    | cons a l ih =>
      have := Cuts.comp (cuts_configurePin a (initMode a)) ih
      rw [List.length_cons, Nat.add_comm]; exact this
  exact h (signalOrder n)

theorem cuts_atSub (n) : Cuts 0 (fun s => s.atSub n) := by apply cuts_update <;> intros <;> rfl

theorem cuts_pulseClock : Cuts 4 pulseClock := by
  have a := fun n v => Cuts.comp (cuts_atSub n) (cuts_padWrite .tck v)
  have b := fun n => Cuts.comp (cuts_atSub n) cuts_settle
  have m : Cuts 0 State.markPulse := by apply cuts_update <;> intros <;> rfl
  exact Cuts.comp (Cuts.comp (Cuts.comp (Cuts.comp m (a 0 0)) (b 1)) (a 2 1)) (b 3)

theorem cuts_setSignal (sig v) : Cuts (if sig = 0 then 2 else if sig = 1 ∨ sig = 2 then 1 else 0) (setSignal sig v) := by
  have hid : Cuts 0 (fun s : State => s) := by apply cuts_update <;> intros <;> rfl
  have e : setSignal sig v = fun s => setSignal sig v s := rfl
  rw [e]
  simp only [setSignal, signalOfCode]
  by_cases h0 : sig = 0
  · simp only [h0, if_true]; exact Cuts.comp (cuts_padWrite _ _) cuts_settle
  by_cases h1 : sig = 1
  · subst h1; exact cuts_padWrite _ _
  by_cases h2 : sig = 2
  · subst h2; exact cuts_padWrite _ _
  by_cases h3 : sig = 3
  · subst h3; exact hid
  simp only [h0, h1, h2, h3, if_false, or_self]; exact hid

/-- An operation that `rst` cuts short, or meets at its end, leaves the block in reset. -/
theorem Cuts.at_end {n F} (hF : Cuts n F) {s : State} {k} (h : s.rst = some k) (hk : k ≤ n) : (F s).rst = some 0 ∧ (F s).env = s.env.after k := by
  rcases Nat.lt_or_eq_of_le hk with h1 | h1
  · exact hF.cut s k h h1
  · subst h1
    rw [hF.late s k h (Nat.le_refl _)]
    refine ⟨by simp [State.withRst], ?_⟩
    exact (hF.run (s.withRst none) rfl).2

theorem pulseClock_counters (s : State) : (pulseClock s).acc = s.acc ∧ (pulseClock s).cyc = s.cyc := by
  have key : ∀ (f : State → State), (∀ s, (f s).acc = s.acc ∧ (f s).cyc = s.cyc) → ∀ s, (microOp f s).acc = s.acc ∧ (microOp f s).cyc = s.cyc := by
    intro f hf s; unfold microOp; split <;> simp [hf]
  have hw : ∀ o v s, (padWrite o v s).acc = s.acc ∧ (padWrite o v s).cyc = s.cyc := fun o v => key _ (fun _ => ⟨rfl, rfl⟩)
  have hs : ∀ s, (settle s).acc = s.acc ∧ (settle s).cyc = s.cyc := key _ (fun _ => ⟨rfl, rfl⟩)
  simp [pulseClock, hw, hs]

theorem pulseWhile_eq_iterate (k : Nat) (s : State) (h : s.acc.toNat + k = s.cyc.toNat) : pulseWhile k s = countedPulse^[k] s := by
  induction k generalizing s with
  | zero => rfl
  | succ k ih =>
    have hne : s.acc ≠ s.cyc := fun he => by rw [he] at h; omega
    have hlt := s.cyc.isLt
    have hacc : (s.acc + 1).toNat = s.acc.toNat + 1 := by
      rw [BitVec.toNat_add, show (1 : BitVec 48).toNat = 1 from rfl]
      exact Nat.mod_eq_of_lt (by omega)
    simp only [pulseWhile, if_neg hne, Function.iterate_succ, Function.comp]
    apply ih
    simp only [countedPulse, (pulseClock_counters s).1, (pulseClock_counters s).2, hacc]; omega

theorem cuts_countedPulse_iterate (k) : Cuts (4 * k) (countedPulse^[k]) := by
  have one : Cuts 4 countedPulse := by
    have c : Cuts 0 (fun s : State => { s with acc := s.acc + 1 }) := by apply cuts_update <;> intros <;> rfl
    exact Cuts.comp cuts_pulseClock c
  induction k with
  | zero => apply cuts_update <;> intros <;> rfl
  | succ k ih =>
    have := Cuts.comp one ih
    rw [show 4 * (k+1) = 4 + 4 * k by omega]; exact this

theorem cuts_countedPulses (n : BitVec 48) : Cuts (4 * n.toNat) (countedPulses n) := by
  have e : countedPulses n = fun s => countedPulse^[n.toNat] { s with cyc := n, acc := 0 } := by
    funext s; exact pulseWhile_eq_iterate _ _ (Nat.zero_add _)
  rw [e]
  have c : Cuts 0 (fun s : State => { s with cyc := n, acc := 0 }) := by apply cuts_update <;> intros <;> rfl
  have := Cuts.comp c (cuts_countedPulse_iterate n.toNat)
  rw [Nat.zero_add] at this; exact this

theorem cuts_timerStart : Cuts 1 (fun s => { (readClock s).2 with t0 := (readClock s).1 }) := by
  have c : Cuts 0 (fun s : State => { s with t0 := s.env.now }) := by apply cuts_update <;> intros <;> rfl
  exact Cuts.comp cuts_readClock c

theorem cuts_timerIteration : Cuts 5 (fun s => (readClock (pulseClock s)).2) := Cuts.comp cuts_pulseClock cuts_readClock

end Sys2Proof.Machine
end

