-- ==== Sys2Proof/Laws/Step.lean ====
section
/-! SUPPORT. What one step does, case by case, and how steps follow one another. -/

namespace Sys2Proof.Machine

theorem core_run_next {M : Host.Core} {n : Nat} {s t : M.State} (h : M.step s = .next t) :
    M.run (n + 1) s = M.run n t := by
  simp only [Host.Core.run, h]

theorem core_run_fault {M : Host.Core} {n : Nat} {s : M.State} {r : M.Fault} (h : M.step s = .fault r) :
    M.run (n + 1) s = .fault r := by
  simp only [Host.Core.run, h]

theorem core_run_refused {M : Host.Core} {n : Nat} {s : M.State} {r : M.Refusal} (h : M.step s = .refused r) :
    M.run (n + 1) s = .refused r := by
  simp only [Host.Core.run, h]

/-- `steps` is the run of the host's interface. -/
theorem steps_eq_core_run (n : Nat) (s : State) : steps n s = Host.Core.run core n s := by
  induction n generalizing s with
  | zero => rfl
  | succ n ih =>
    cases h : step s with
    | next t =>
      simp only [steps, h]
      exact (ih t).trans (core_run_next (M := core) h).symm
    | fault r =>
      simp only [steps, h]
      exact (core_run_fault (M := core) h).symm
    | refused r =>
      simp only [steps, h]
      exact (core_run_refused (M := core) h).symm

theorem steps_one (s : State) : steps 1 s = step s := by
  simp only [steps]
  cases step s <;> rfl

/-- The last of several steps. -/
theorem steps_succ {n : Nat} {s t : State} (h : steps n s = .next t) : steps (n + 1) s = step t := by
  induction n generalizing s with
  | zero =>
    simp only [steps, Host.Outcome.next.injEq] at h
    rw [h, steps_one]
  | succ n ih =>
    rw [steps] at h ⊢
    cases hs : step s with
    | next u => rw [hs] at h; exact ih h
    | fault r => rw [hs] at h; cases h
    | refused r => rw [hs] at h; cases h

theorem step_busy {s : State} (hb : s.busy = true) (hr : s.rst = none) : step s = continueCommand s := by
  simp [step, State.inReset, hb, hr]

theorem step_in_reset {s : State} (hr : s.rst = some 0) : step s = resetEvent s := by
  simp [step, State.inReset, hr]

end Sys2Proof.Machine
end

