-- ==== Sys2Proof/Laws/Trace.lean ====
section
/-! SUPPORT. The counts and disciplines of a trace over appended segments and over trains of pulses. -/

namespace Sys2Proof.Machine

theorem lastWrite_append (T U : List Event) (o : OutSignal) :
    lastWrite (T ++ U) o = (lastWrite U o).or (lastWrite T o) := by
  simp [lastWrite, writes, List.filterMap_append, List.getLast?_append]

theorem lastWrite_pulseTrain (n : Nat) (o : OutSignal) :
    lastWrite (pulseTrain n) o = if n ≠ 0 ∧ o = .tck then some 1 else none := by
  induction n with
  | zero => simp [pulseTrain, lastWrite, writes]
  | succ n ih =>
    rw [pulseTrain, lastWrite_append, ih]
    cases o <;> by_cases hn : n = 0 <;> simp [hn] <;> decide

theorem pulsesIn_append (P Q : List Nat) (i j : Nat) : pulsesIn (P ++ Q) i j = pulsesIn P i j + pulsesIn Q i j :=
  List.countP_append

/-- An execution whose four events stand in a trace begins at least four events before its end. -/
theorem traceSegment_pulse_fits {T : List Event} {p : Nat} (h : traceSegment T p (p + 4) = pulseEvents) : p + 4 ≤ T.length := by
  have hl := congrArg List.length h
  rw [traceSegment, List.length_take, List.length_drop, show pulseEvents.length = 4 from rfl] at hl
  omega

/-- Recorded executions keep their events as the trace grows. -/
theorem traceSegment_append {T : List Event} {i j : Nat} (U : List Event) (h : j ≤ T.length) :
    traceSegment (T ++ U) i j = traceSegment T i j := by
  by_cases hi : i ≤ T.length
  · rw [traceSegment, traceSegment, List.drop_append_of_le_length hi, List.take_append_of_le_length]
    rw [List.length_drop]
    omega
  · rw [traceSegment, traceSegment, show j - i = 0 by omega, List.take_zero, List.take_zero]

theorem pulseStarts_bounds {at0 gap n p : Nat} (h : p ∈ pulseStarts at0 gap n) : at0 ≤ p ∧ p + gap ≤ at0 + gap * n := by
  induction n generalizing at0 with
  | zero => cases h
  | succ n ih =>
    rw [Nat.mul_succ]
    rcases List.mem_cons.1 h with rfl | h
    · omega
    · have := ih h
      omega

/-- The executions recorded so far have no event after the end of the trace. -/
theorem pulsesIn_of_recorded {s : State} (h : s.PulsesRecorded) {i j : Nat} (hi : s.tr.length ≤ i) :
    pulsesIn s.pulseAt i j = 0 := by
  rw [pulsesIn, List.countP_eq_zero]
  intro p hp
  have := traceSegment_pulse_fits (h.2 p hp)
  simp only [Bool.and_eq_true, decide_eq_true_eq, not_and]
  omega

/-- Of `n` executions in a tight sequence, those with all their events from event `a` to before event `b` of the sequence. -/
theorem pulsesIn_pulseStarts (at0 n : Nat) {a b : Nat} (h : a ≤ b) :
    pulsesIn (pulseStarts at0 4 n) (at0 + a) (at0 + b) = min (b / 4) n - (a + 3) / 4 := by
  induction n with
  | zero => simp [pulseStarts, pulsesIn]
  | succ n ih =>
    have last : pulsesIn (pulseStarts (at0 + 4 * n) 4 1) (at0 + a) (at0 + b) =
        if at0 + a ≤ at0 + 4 * n ∧ at0 + 4 * n + 4 ≤ at0 + b then 1 else 0 := by
      simp [pulsesIn, pulseStarts, List.countP_cons]
    rw [pulseStarts_add, pulsesIn_append, ih, last]
    split <;> omega

theorem timerTrain_length (reading : Nat → Nat) (i n : Nat) : (timerTrain reading i n).length = 5 * n := by
  induction n generalizing i with
  | zero => rfl
  | succ n ih => simp only [timerTrain, List.length_append, ih, List.length_singleton, show pulseEvents.length = 4 from rfl]; omega

/-- A disciplined segment leaves no TCK write pending. -/
theorem settleDiscipline_append (p : Bool) (T U : List Event) (h : settleDiscipline p T = true) :
    settleDiscipline p (T ++ U) = settleDiscipline false U := by
  induction T generalizing p with
  | nil => cases p <;> simp [settleDiscipline] at h ⊢
  | cons e T ih =>
    cases p <;> simp [settleDiscipline] at h ⊢
    · rw [ih _ h.2]; simp [h.1]
    · rw [ih _ h.2]; simp [h.1]

theorem settleDiscipline_pulseTrain (n : Nat) : settleDiscipline false (pulseTrain n) = true := by
  induction n with
  | zero => rfl
  | succ n ih => rw [pulseTrain, settleDiscipline_append _ _ _ (by decide), ih]

theorem clockReadings_append (T U : List Event) : clockReadings (T ++ U) = clockReadings T ++ clockReadings U := by
  simp [clockReadings]

theorem clockReadings_pulseTrain (n : Nat) : clockReadings (pulseTrain n) = [] := by
  induction n with
  | zero => rfl
  | succ n ih => rw [pulseTrain, clockReadings_append, ih]; decide

/-- One more iteration of strategy 2 at the end of a train. -/
theorem timerTrain_snoc (reading : Nat → Nat) (i n : Nat) :
    timerTrain reading i (n + 1) = timerTrain reading i n ++ (pulseEvents ++ [.now (reading (i + n))]) := by
  induction n generalizing i with
  | zero => simp [timerTrain]
  | succ n ih => rw [timerTrain, ih, timerTrain]; simp [show i + 1 + n = i + (n + 1) by omega]

end Sys2Proof.Machine
end

