-- ==== Sys2Proof/Tests/Slice0.lean ====
section
/-! SUPPORT. The model's own tests. Expected values are the spec's: the words of 30_encoding.md and 95_test_vectors.md, and the
derived vectors of 95_test_vectors.md part 2, named by their section. Then, for each obligation with hypotheses, a witness that
meets them. -/

namespace Sys2Proof.Tests

open Sys2Proof.Machine

/-! ### States for the tests -/

/-- Four distinct pads. -/
def fourPads : Binding := { tck := ⟨0, 0⟩, tms := ⟨0, 1⟩, tdi := ⟨1, 0⟩, tdo := ⟨1, 1⟩ }

/-- Straps with the calibration constant 3 and strategy 1. -/
def straps : StrapPins := { cpm := 3, strategy := 1, bind := fourPads }

/-- A released block before INIT, under a strategy, with the environment's next moves. -/
def fresh (st : Strategy) (moves : List EnvMove) : State :=
  State.released straps { cpm := 3, strategy := st, bind := fourPads } { now := 0, tdo := .low, script := moves, draws := 0 } []

/-- The same after INIT, with TCK at 0. -/
def ready (st : Strategy) (moves : List EnvMove) : State :=
  { fresh st moves with mode := .configured, lvl := { tck := some 0, tms := none, tdi := none } }

/-- A host that presents one word. -/
def presenting (w : Word) (s : State) : State := { s with prog := [w] }

/-- A move that lets time pass and leaves the TDO line low. -/
def pass (us : Nat) : EnvMove := { advance := us, tdo := .low, wake := false }

/-- A move that resumes a sleeping block. -/
def resume (us : Nat) : EnvMove := { advance := us, tdo := .low, wake := true }

/-- Moves before a reading of the clock in strategy 2's loop: four micro-operations of a pulse, then the reading. -/
def pulseThen (us : Nat) : List EnvMove := [pass 0, pass 0, pass 0, pass 0, pass us]

/-- The next state, if there is one. -/
def nextOf : Host.Outcome State Fault Refusal → Option State
  | .next s => some s
  | .fault _ => none
  | .refused _ => none

/-- The refusal, if there is one. -/
def refusalOf : Host.Outcome State Fault Refusal → Option Refusal
  | .next _ => none
  | .fault _ => none
  | .refused r => some r

/-! ### Well-formedness: a term each check refuses (95 section 2.9) -/

theorem test_straps_well_formed : straps.WellFormed ∧ straps.sample.isSome = true := by decide

theorem test_cpm_zero_refused : ¬ ({ straps with cpm := 0 } : StrapPins).WellFormed ∧
    ({ straps with cpm := 0 } : StrapPins).sample = none := by decide

theorem test_strategy_zero_refused : ¬ ({ straps with strategy := 0 } : StrapPins).WellFormed ∧
    ({ straps with strategy := 0 } : StrapPins).sample = none := by decide

/-- TCK and TMS bound to the same pad. -/
theorem test_shared_pad_refused :
    ¬ ({ straps with bind := { fourPads with tms := ⟨0, 0⟩ } } : StrapPins).WellFormed ∧
      ({ straps with bind := { fourPads with tms := ⟨0, 0⟩ } } : StrapPins).sample = none := by decide

theorem test_cfg_cpm_zero_ill_formed : ¬ ({ cpm := 0, strategy := .clockDriven, bind := fourPads } : Cfg).WellFormed := by
  decide

/-- The document's numbers of the strategies (R22). -/
theorem test_strategy_codes : Strategy.ofCode 0 = none ∧ Strategy.ofCode 1 = some .clockDriven ∧
    Strategy.ofCode 2 = some .timerDriven ∧ Strategy.ofCode 3 = some .thresholdDriven := by decide

/-! ### Decoding: words written out bit by bit from R73 to R77 (95 section 2.1) -/

theorem test_decode_init : decode 0b00000000_00000000000000000000000000000000#40 = .ok .init := by decide

/-- SET TMS,1: OP 0x01, ARG[31:16] zero, SIG = 1, seven zeros, LVL = 1. -/
theorem test_decode_set : decode 0b00000001_0000000000000000_00000001_0000000_1#40 = .ok (.set 1 1) := by decide

theorem test_decode_read : decode 0b00000010_00000000000000000000000000000000#40 = .ok .read := by decide

theorem test_decode_pulse : decode 0b00000011_00000000000000000000000000000000#40 = .ok .pulse := by decide

/-- WAIT 51: OP 0x04, DUR = 51. -/
theorem test_decode_wait : decode 0b00000100_00000000000000000000000000110011#40 = .ok (.wait 51) := by decide

theorem test_decode_edges : decode 0x010000FF01 = .ok (.set 255 1) ∧ decode 0x04FFFFFFFF = .ok (.wait 4294967295) ∧
    decode 0x0100000301 = .ok (.set 3 1) := by decide

theorem test_decode_invalid : decode 0x0000000001 = .error .reservedBitSet ∧
    decode 0x0100000002 = .error .reservedBitSet ∧ decode 0x0100000180 = .error .reservedBitSet ∧
    decode 0x0100010000 = .error .reservedBitSet ∧ decode 0x0200000003 = .error .reservedBitSet ∧
    decode 0x0300000100 = .error .reservedBitSet ∧ decode 0x0500000000 = .error .unassignedOpcode ∧
    decode 0xFF00000000 = .error .unassignedOpcode := by decide

/-- The OP byte comes first (R53). -/
theorem test_bytes : decodeBytes [0x04, 0, 0, 0, 0x33, 0x02] = .ok (.wait 51, [0x02]) ∧
    decodeBytes [0x04, 0, 0, 0] = .error .truncatedWord := by
  constructor <;> rfl

theorem test_table_word : decodeTableWord 40 0x0100000701 = some (.set 7 1) ∧ decodeTableWord 40 0x0100000002 = none := by
  decide

/-! ### Assembler (R82, and the programs of 95 part 3) -/

theorem test_assemble_set : assemble "SET  TMS,0".toList = .ok (some (.set 1 0)) ∧
    assemble "SET 9, 1 ; ignored".toList = .ok (some (.set 9 1)) := by
  constructor <;> rfl

theorem test_assemble_wait : assemble "WAIT 4294967295".toList = .ok (some (.wait 4294967295)) ∧
    assemble "WAIT 4294967296".toList = .error .outOfRange := by
  constructor <;> rfl

theorem test_assemble_others : assemble "INIT".toList = .ok (some .init) ∧ assemble "READ".toList = .ok (some .read) ∧
    assemble "PULSE ; one".toList = .ok (some .pulse) ∧ assemble "; nothing".toList = .ok none ∧
    assemble "SET TMS,2".toList = .error .outOfRange := by
  refine ⟨?_, ?_, ?_, ?_, ?_⟩ <;> rfl

/-! ### Commands -/

/-- 95 section 2.2, second row: `LVL` is kept, four `Cfg` events are appended. -/
theorem test_init_keeps_levels : (nextOf (exec .init { ready .clockDriven [] with lvl := ⟨some 1, some 0, some 1⟩ })).map
    (fun t => (t.mode, t.lvl, t.tr.length)) = some (.configured, ⟨some 1, some 0, some 1⟩, 4) := by decide

/-- The word the host places runs as the first instruction after reset. -/
theorem test_init_after_reset : (nextOf (step (State.reset.withFetchWord 40 0))).map (fun t => (t.mode, t.busy, t.cp)) =
    some (.configured, false, 1) := by decide

/-- 95 section 2.3: SET TMS,1 writes one line and makes no settle delay. -/
theorem test_set_tms : (nextOf (exec (.set 1 1) (ready .clockDriven []))).map (fun t => (t.lvl, t.tr)) =
    some (⟨some 0, some 1, none⟩, [.write .tms 1]) := by decide

/-- 95 section 2.3: SET TCK,1 makes a settle delay. -/
theorem test_set_tck : (nextOf (exec (.set 0 1) (ready .clockDriven []))).map (fun t => (t.lvl, t.tr)) =
    some (⟨some 1, none, none⟩, [.write .tck 1, .settle]) := by decide

/-- 95 section 2.4: the device presents 1. -/
theorem test_read_one : (nextOf (exec .read (ready .clockDriven [⟨0, .high, false⟩]))).map (fun t => (t.rdata, t.tr, t.done)) =
    some (some 1, [.sample 1], true) := by decide

/-- 95 section 2.4: an undriven line. -/
theorem test_read_undriven : (nextOf (exec .read (ready .clockDriven [⟨0, .z, false⟩]))).map (fun t => t.rdata) =
    some (some 1) := by decide

/-- 95 section 2.5: the four events, and TCK high after them. -/
theorem test_pulse : (nextOf (exec .pulse (ready .clockDriven []))).map (fun t => (t.lvl.tck, t.tr, t.pulses 0 4)) =
    some (some 1, [.write .tck 0, .settle, .write .tck 1, .settle], 1) := by decide

/-- 95 section 2.9: PULSE as the first command after reset. -/
theorem test_pulse_before_init : refusalOf (exec .pulse (fresh .clockDriven [])) = some .pinsUnconfigured := by decide

/-- 95 section 2.6: CFG.CPM = 3, WAIT 4: 12 pulses, 48 events; and 10 whole pulses from the second event to the last but one
(R38). -/
theorem test_wait_clock_driven : (nextOf (exec (.wait 4) (ready .clockDriven []))).map
    (fun t => (t.pulses 0 48, t.pulses 1 47, t.tr.length, t.lvl.tck, t.busy)) = some (12, 10, 48, some 1, false) := by decide

/-- 95 section 2.8: WAIT 1001 sleeps two milliseconds with TCK low. -/
theorem test_wait_threshold : (nextOf (exec (.wait 1001) (ready .thresholdDriven [pass 0, pass 0, pass 0, resume 2000]))).map
    (fun t => (t.tr, t.lvl.tck, t.busy)) = some ([.write .tck 0, .settle, .sleep 2], some 0, false) := by decide

/-- 95 section 2.6 and 2.8: products and ceilings at the ends of their ranges. -/
theorem test_arithmetic : pulseTarget 4294967295 65535 = 281470681677825 ∧ pulseTarget 65538 65535 = 4295032830 ∧
    sleepMs 51 = 1 ∧ sleepMs 1000 = 1 ∧ sleepMs 1001 = 2 ∧ sleepMs 4294967295 = 4294968 ∧
    isLongWait 50 = false ∧ isLongWait 51 = true := by decide

/-! ### Witnesses: for each obligation with hypotheses, inputs that meet all of them -/

theorem witness_decode_of_encode : (Instr.set 255 1).wellFormed = true ∧ (Instr.wait 4294967295).wellFormed = true := by decide

theorem witness_encode_of_decoded : decode 0x04FFFFFFFF = .ok (.wait 4294967295) := by decide

/-- Each side of each name, at the boundary opcodes. -/
theorem witness_invalid_words : decode 0x0500000000 = .error .unassignedOpcode ∧ decode 0x0400000000 = .ok (.wait 0) ∧
    decode 0x0380000000 = .error .reservedBitSet ∧ decode 0x0100000080 = .error .reservedBitSet ∧
    decode 0x010000FF01 = .ok (.set 255 1) := by decide

theorem witness_step_runs : (presenting 0x0300000000 (ready .clockDriven [])).inReset = false ∧
    (presenting 0x0300000000 (ready .clockDriven [])).busy = false ∧
    (presenting 0x0300000000 (ready .clockDriven [])).cmdWord = some 0x0300000000 ∧
    decode 0x0300000000 = .ok .pulse := by decide

theorem witness_step_refuses : (presenting 0x0500000000 (ready .clockDriven [])).inReset = false ∧
    (presenting 0x0500000000 (ready .clockDriven [])).busy = false ∧
    (presenting 0x0500000000 (ready .clockDriven [])).cmdWord = some 0x0500000000 ∧
    decode 0x0500000000 = .error .unassignedOpcode := by decide

/-- The pointer stands exactly at the end of a list of one word. -/
theorem witness_exhausted : ({ presenting 0 (ready .clockDriven []) with cp := 1 } : State).inReset = false ∧
    ({ presenting 0 (ready .clockDriven []) with cp := 1 } : State).busy = false ∧
    ({ presenting 0 (ready .clockDriven []) with cp := 1 } : State).prog.length ≤ 1 := by decide

theorem witness_busy : ({ ready .clockDriven [] with busy := true } : State).busy = true := by decide

/-- One pin unconfigured is enough; then an idle block; then a step with all pins configured. -/
theorem witness_before_init : Instr.pulse ≠ .init ∧
    ({ ready .clockDriven [] with mode := { Modes.configured with tdo := .unconf } } : State).busy = false ∧
    ({ ready .clockDriven [] with mode := { Modes.configured with tdo := .unconf } } : State).mode.get .tdo = .unconf ∧
    (fresh .clockDriven []).Idle ∧
    (presenting 0 (ready .clockDriven [])).rst = none ∧ (presenting 0 (ready .clockDriven [])).mode.allConfigured = true ∧
    (nextOf (step (presenting 0 (ready .clockDriven [])))).isSome = true := by decide

/-- Before a first INIT and before a second one. -/
theorem witness_init : (fresh .clockDriven []).Idle ∧ (fresh .clockDriven []).mode = .unconfigured ∧
    (ready .clockDriven []).Idle ∧ (ready .clockDriven []).mode = .configured := by decide

/-- Ready states, one for each strategy. -/
theorem witness_ready : (ready .clockDriven []).Ready ∧ (ready .timerDriven []).Ready ∧ (ready .thresholdDriven []).Ready := by
  decide

theorem witness_set_ignored : 4 ≤ (4 : BitVec 8).toNat ∧ 4 ≤ (255 : BitVec 8).toNat ∧ (ready .clockDriven []).Ready := by decide

theorem witness_set_seen : (ready .clockDriven []).Ready ∧ (ready .clockDriven []).mode = .configured ∧
    (ready .clockDriven []).cfg.bind.Injective ∧
    (⟨1, 1⟩ : Pad) ≠ (ready .clockDriven []).cfg.bind.pad OutSignal.tck.toSignal := by decide

theorem witness_read : (ready .clockDriven [⟨0, .low, false⟩]).Ready ∧
    (ready .clockDriven [⟨0, .low, false⟩]).env.next.tdo = .low ∧
    (ready .clockDriven [⟨0, .high, false⟩]).Ready ∧ (ready .clockDriven [⟨0, .high, false⟩]).env.next.tdo = .high ∧
    (ready .clockDriven [⟨0, .z, false⟩]).Ready ∧ (ready .clockDriven [⟨0, .z, false⟩]).env.next.tdo = .z := by decide

theorem witness_clock_driven : (ready .clockDriven []).Ready ∧ (ready .clockDriven []).cfg.strategy = .clockDriven ∧
    (ready .clockDriven []).cfg.cpm ≠ 0 := by decide

/-- WAIT 1 with CFG.CPM = 3: all twelve events, and the ten between the first and the last, which cut two pulses. -/
theorem witness_segments : (ready .clockDriven []).PulsesRecorded ∧ (0 ≤ 12 ∧ 12 ≤ 4 * ((1 : BitVec 32).toNat * 3)) ∧
    (1 ≤ 11 ∧ 11 ≤ 4 * ((1 : BitVec 32).toNat * 3)) ∧
    (nextOf (exec (.wait 1) (ready .clockDriven []))).map (fun t => (t.pulses 0 12, t.pulses 1 11)) = some (3, 1) := by
  refine ⟨⟨.nil, ?_⟩, by decide, by decide, by decide⟩
  intro p h
  cases h

/-- Twelve micro-operations of a microsecond each. -/
def oneEach : State := ready .clockDriven (List.replicate 12 (pass 1))

/-- Each of WAIT 1's three pulses takes a microsecond at least, so that the instance is calibrated for 1 there. -/
theorem witness_calibrated_for_one : oneEach.Ready ∧ oneEach.cfg.strategy = .clockDriven ∧
    0 < 1 ∧ 1 ≤ oneEach.cfg.cpm.toNat * 1 ∧ PulsesTakeAtLeast oneEach.env 3 1 1 ∧
    (1 : BitVec 32).toNat * oneEach.cfg.cpm.toNat ≤ 3 ∧ oneEach.CalibratedFor 1 := by
  refine ⟨by decide, by decide, by decide, by decide, ?_, by decide, ?_⟩
  · unfold PulsesTakeAtLeast
    decide
  · unfold State.CalibratedFor
    decide

/-- With a clock that stands still for those twelve moves it is not. -/
theorem witness_not_calibrated : ¬ (ready .clockDriven (List.replicate 12 (pass 0))).CalibratedFor 1 := by
  unfold State.CalibratedFor
  decide

/-- As many micro-operations of a microsecond each as the longest WAIT has with CFG.CPM = 3. -/
def alwaysOneEach : State := ready .clockDriven (List.replicate (4 * 12884901885) (pass 1))

/-- There every pulse takes a microsecond at least. -/
theorem witness_least_pulse_time : 0 < 1 ∧ 1 ≤ alwaysOneEach.cfg.cpm.toNat * 1 ∧
    4294967295 * alwaysOneEach.cfg.cpm.toNat ≤ 12884901885 ∧ PulsesTakeAtLeast alwaysOneEach.env 12884901885 1 1 := by
  refine ⟨by decide, by decide, by decide, ?_⟩
  intro j hj
  have h : alwaysOneEach.env.script = List.replicate (4 * 12884901885) (pass 1) := rfl
  have before := (Env.after_replicate h (show 4 * j ≤ 4 * 12884901885 by omega)).2
  have after := (Env.after_replicate h (show 4 * j + 4 ≤ 4 * 12884901885 by omega)).2
  rw [Env.time, Env.after_after, before, after, show (pass 1).advance = 1 from rfl]
  omega

/-- An instance calibrated for every duration: the first move alone lasts longer than any. -/
theorem witness_calibrated : (ready .clockDriven [pass 4294967296]).Calibrated := by
  intro d
  have hd := d.isLt
  by_cases h : d.toNat = 0
  · rw [State.CalibratedFor, h]
    exact Nat.zero_le _
  · have first : ((ready .clockDriven [pass 4294967296]).env.after 1).now = 4294967296 := rfl
    have later := Env.after_mono (ready .clockDriven [pass 4294967296]).env (show 1 ≤ 4 * (d.toNat * 3) by omega)
    have start : (ready .clockDriven [pass 4294967296]).env.now = 0 := rfl
    change d.toNat ≤ Env.time _ (4 * (d.toNat * 3))
    rw [Env.time]
    omega

/-- 95 section 2.7, second row: WAIT 5, readings 100 and 105. -/
def equalityClock : State := presenting 0x0400000005 (ready .timerDriven (pass 100 :: pulseThen 5))

theorem witness_timer_exits_at_equality : equalityClock.Ready ∧ equalityClock.cfg.strategy = .timerDriven ∧
    equalityClock.cmdWord = some (encode (.wait 5)) ∧
    (5 : BitVec 32).toNat ≤ timerReading equalityClock 0 - timerStart equalityClock ∧
    (nextOf (exec (.wait 5) equalityClock)).map (fun t => (t.t0, t.tr.length, t.busy)) = some (100, 6, false) := by decide

/-- 95 section 2.7, first row: WAIT 5, readings 100, 102, 104, 106. -/
def slowClock : State :=
  presenting 0x0400000005 (ready .timerDriven (pass 100 :: pulseThen 2 ++ pulseThen 2 ++ pulseThen 2))

/-- Two readings fall short and the third does not. -/
theorem witness_timer_goes_on : slowClock.Ready ∧ slowClock.cfg.strategy = .timerDriven ∧
    slowClock.cmdWord = some (encode (.wait 5)) ∧
    (∀ i, i < 2 → timerReading slowClock i - timerStart slowClock < (5 : BitVec 32).toNat) ∧
    (5 : BitVec 32).toNat ≤ timerReading slowClock 2 - timerStart slowClock ∧
    timerReading slowClock 2 = 106 := by decide

/-- The state after the first iteration: a WAIT under way whose next reading is short, and one whose next reading is not. -/
theorem witness_timer_iteration :
    (nextOf (exec (.wait 5) slowClock)).map
      (fun t => (t.busy, t.rst, t.cur, t.cfg.strategy, (t.env.after 5).now - t.t0)) =
        some (true, none, encode (.wait 5), .timerDriven, 4) ∧
    (nextOf (exec (.wait 4) slowClock)).map
      (fun t => (t.busy, t.rst, t.cur, t.cfg.strategy, (t.env.after 5).now - t.t0)) =
        some (true, none, encode (.wait 4), .timerDriven, 4) := by decide

theorem witness_clock_reaches : ClockReaches slowClock.env (timerStart slowClock + (5 : BitVec 32).toNat) :=
  ⟨16, by decide⟩

/-- Both sides of the cutoff, the short side down to 0. -/
theorem witness_threshold : (ready .thresholdDriven []).Ready ∧ (ready .thresholdDriven []).cfg.strategy = .thresholdDriven ∧
    (0 : BitVec 32).toNat ≤ 50 ∧ (50 : BitVec 32).toNat ≤ 50 ∧ 50 < (51 : BitVec 32).toNat := by decide

/-- WAIT 51 with a platform that resumes the block at its second poll, a millisecond after the call. -/
def sleeper : State :=
  presenting 0x0400000033 (ready .thresholdDriven [pass 0, pass 0, pass 0, pass 1000, resume 0])

theorem witness_sleep : sleeper.Ready ∧ sleeper.cfg.strategy = .thresholdDriven ∧ 50 < (51 : BitVec 32).toNat ∧
    sleeper.cmdWord = some (encode (.wait 51)) ∧
    (∀ j, j < 1 → (sleeper.env.after (3 + j)).next.wake = false) ∧ (sleeper.env.after (3 + 1)).next.wake = true := by decide

/-- That platform sleeps truly, whatever moves follow the queued ones. -/
theorem witness_sleep_true : SleepTrue (sleeper.env.after 3) (sleepMs 51).toNat := by
  refine ⟨⟨1, by decide⟩, ?_⟩
  intro k hk
  have h0 : ((sleeper.env.after 3).after 0).next.wake = false := by decide
  have h1 : (sleeper.env.after 3).now + 1000 * (sleepMs 51).toNat ≤ ((sleeper.env.after 3).after 1).now := by decide
  exact Nat.le_trans h1 (Env.after_mono _ (by omega))

/-- The same with a platform that resumes nothing at the second poll. -/
def longSleeper : State :=
  presenting 0x0400000033 (ready .thresholdDriven [pass 0, pass 0, pass 0, pass 1000, pass 0])

/-- The premises with no poll passed and with one, the poll after them resuming nothing. -/
theorem witness_sleeps_on : longSleeper.Ready ∧ longSleeper.cfg.strategy = .thresholdDriven ∧
    longSleeper.cmdWord = some (encode (.wait 51)) ∧ (longSleeper.env.after (3 + 0)).next.wake = false ∧
    (∀ j, j < 1 → (longSleeper.env.after (3 + j)).next.wake = false) ∧
    (longSleeper.env.after (3 + 1)).next.wake = false := by decide

/-- A platform that resumes the block too early: the sleep returns, and is not true. -/
theorem witness_early_sleep :
    let e := (ready .thresholdDriven [pass 0, pass 0, pass 0, resume 5]).env.after 3
    SleepReturns e ∧ ¬ SleepTrue e (sleepMs 51).toNat :=
  ⟨⟨0, by decide⟩, fun h => absurd (h.2 0 (by decide)) (by decide)⟩

/-- The block asleep, resumed at the next poll. -/
theorem witness_asleep : (nextOf (exec (.wait 51) sleeper)).map
    (fun t => (t.busy, t.rst, t.cur, t.cfg.strategy, t.env.next.wake)) =
      some (true, none, encode (.wait 51), .thresholdDriven, true) := by decide

/-- The block asleep, not resumed at the next poll. -/
theorem witness_asleep_longer : (nextOf (exec (.wait 51) longSleeper)).map
    (fun t => (t.busy, t.rst, t.cur, t.cfg.strategy, t.env.next.wake)) =
      some (true, none, encode (.wait 51), .thresholdDriven, false) := by decide

/-- Resumed at the first poll, and not. -/
theorem witness_long_wait : ((ready .thresholdDriven [pass 0, pass 0, pass 0, resume 2000]).env.after 3).next.wake = true ∧
    (sleeper.env.after 3).next.wake = false := by decide

/-- A WAIT that ends, or is left under way, for each strategy, CFG.CPM legal; steps of one under way stand in
`witness_busy_in_wait`. -/
theorem witness_tck_level : (ready .clockDriven []).cfg.cpm ≠ 0 ∧ (nextOf (exec (.wait 0) (ready .clockDriven []))).isSome = true ∧
    (nextOf (exec (.wait 5) equalityClock)).isSome = true ∧ (nextOf (exec (.wait 50) (ready .thresholdDriven []))).isSome = true ∧
    (nextOf (exec (.wait 51) sleeper)).isSome = true := by decide

/-- A command of each kind that has a next state, `rst` not asserted. -/
theorem witness_writers : (ready .clockDriven []).rst = none ∧ (nextOf (exec .init (ready .clockDriven []))).isSome = true ∧
    (nextOf (exec .read (ready .clockDriven []))).isSome = true ∧ (nextOf (exec .pulse (ready .clockDriven []))).isSome = true := by
  decide

/-- Another strategy, or another command. -/
theorem witness_calibration : (ready .timerDriven []).rst = none ∧ (ready .timerDriven []).cfg.strategy ≠ .clockDriven ∧
    (∀ d, Instr.pulse ≠ .wait d) := by
  refine ⟨by decide, by decide, ?_⟩
  intro d h
  cases h

/-- A state with a next one, `rst` not asserted, for the rules of the trace, the configuration and the clock. -/
theorem witness_step : (presenting 0x0300000000 (ready .clockDriven [])).rst = none ∧
    (nextOf (step (presenting 0x0300000000 (ready .clockDriven [])))).map (fun t => t.pulseAt) = some [0] := by decide

/-- The state of the invariants' witness: PULSE presented after SET TCK,0. -/
def afterSet : State := presenting 0x0300000000 { ready .clockDriven [] with tr := [.write .tck 0, .settle] }

theorem witness_invariants : afterSet.LegalConfiguration ∧ afterSet.LatchesMatchTrace ∧ afterSet.Settled ∧
    afterSet.ClockOrdered ∧ afterSet.BusyOnlyInWait ∧ (nextOf (step afterSet)).isSome = true := by
  refine ⟨⟨by decide, .inr rfl⟩, ?_, by unfold State.Settled; decide, ⟨by decide, by decide⟩, ?_, by decide⟩
  · intro o
    cases o <;> decide
  · intro h
    exact absurd h (by decide)

/-- A block in a strategy-2 WAIT short of its duration. -/
def inTimerWait : State := { slowClock with busy := true, cur := encode (.wait 5), t0 := 0 }

/-- A block asleep. -/
def asleep : State := { sleeper with busy := true, cur := encode (.wait 51) }

/-- Busy states of the last invariant that go on. -/
theorem witness_busy_in_wait : inTimerWait.busy = true ∧ inTimerWait.rst = none ∧ inTimerWait.BusyOnlyInWait ∧
    (nextOf (step inTimerWait)).isSome = true ∧ asleep.busy = true ∧ asleep.rst = none ∧ asleep.BusyOnlyInWait ∧
    (nextOf (step asleep)).isSome = true := by
  refine ⟨rfl, rfl, fun _ => ⟨5, by decide, .inl ?_⟩, by decide, rfl, rfl, fun _ => ⟨51, by decide, .inr ?_⟩, by decide⟩ <;> decide

/-- A recorded pulse, and a PULSE presented that records another. -/
theorem witness_recorded :
    let s := { presenting 0x0300000000 (ready .clockDriven []) with tr := .write .tms 1 :: pulseEvents, pulseAt := [1] }
    State.PulsesRecorded s ∧ (nextOf (step s)).map (fun t => t.pulseAt) = some [1, 5] := by
  refine ⟨⟨by decide, by decide⟩, by decide⟩

/-- An asserted `rst` with well-formed straps, and with ill-formed ones. -/
theorem witness_reset : ({ ready .clockDriven [] with rst := some 0 } : State).rst = some 0 ∧
    (ready .clockDriven []).straps.sample = some { cpm := 3, strategy := .clockDriven, bind := fourPads } ∧
    ({ straps with cpm := 0 } : StrapPins).sample = none := by decide

/-- A reset after none, some and all of a PULSE's four moves. -/
theorem witness_cut_short : (ready .clockDriven []).busy = false ∧ (ready .clockDriven []).admits .pulse = true ∧
    0 ≤ moveCount (ready .clockDriven []) .pulse ∧ 2 ≤ moveCount (ready .clockDriven []) .pulse ∧
    4 ≤ moveCount (ready .clockDriven []) .pulse ∧
    (nextOf (exec .pulse { ready .clockDriven [] with rst := some 2 })).map (fun t => (t.mode, t.tr, t.env.draws)) =
      some (.unconfigured, [], 2) := by decide

/-- A reset one move after a PULSE's last. -/
theorem witness_later_reset : (ready .clockDriven []).busy = false ∧ (ready .clockDriven []).admits .pulse = true ∧
    moveCount (ready .clockDriven []) .pulse < 5 ∧
    (nextOf (exec .pulse { ready .clockDriven [] with rst := some 5 })).map (fun t => (t.mode, t.rst)) =
      some (.configured, some 1) := by decide

/-- A reset at the start, inside and at the end of an iteration of strategy 2, and around a poll of a block asleep. -/
theorem witness_cut_short_later : laterMoveCount inTimerWait = 5 ∧ laterMoveCount asleep = 1 ∧
    (nextOf (step { inTimerWait with rst := some 0 })).map (fun t => (t.mode, t.tr, t.env.draws)) = some (.unconfigured, [], 0) ∧
    (nextOf (step { inTimerWait with rst := some 3 })).map (fun t => (t.mode, t.tr, t.env.draws)) = some (.unconfigured, [], 3) ∧
    (nextOf (step { inTimerWait with rst := some 5 })).map (fun t => (t.mode, t.tr, t.env.draws)) = some (.unconfigured, [], 5) ∧
    (nextOf (step { asleep with rst := some 1 })).map (fun t => (t.mode, t.busy, t.env.draws)) = some (.unconfigured, false, 1) := by
  decide

/-- Ill-formed straps at a reset inside a command, its first step and a later one. -/
theorem witness_cut_short_ill_formed :
    refusalOf (exec .pulse { ready .clockDriven [] with rst := some 2, straps := { straps with cpm := 0 } }) =
      some .illFormedConfiguration ∧
    refusalOf (step { inTimerWait with rst := some 3, straps := { straps with cpm := 0 } }) = some .illFormedConfiguration := by
  decide

/-- A reset one move after the last of a further step. -/
theorem witness_later_reset_busy :
    (nextOf (step { inTimerWait with rst := some 6 })).map (fun t => (t.mode, t.rst)) = some (.configured, some 1) ∧
    (nextOf (step { asleep with rst := some 2 })).map (fun t => (t.mode, t.rst)) = some (.configured, some 1) := by decide

theorem witness_sampling : straps.sample = some { cpm := 3, strategy := .clockDriven, bind := fourPads } := by decide

end Sys2Proof.Tests
end

section
/-! O1: the rows of the opcode table (R73 to R77). A masked comparison splits along the fields of the word, and so does
the decoder; the two meet at the opcode and the reserved bits. -/

namespace Sys2Proof

theorem append_eq_append_iff {m n : Nat} {hi hi' : BitVec m} {lo lo' : BitVec n} :
    hi ++ lo = hi' ++ lo' ↔ hi = hi' ∧ lo = lo' := by
  constructor
  · intro h
    exact ⟨by simpa only [BitVec.extractLsb'_append_eq_left] using congrArg (BitVec.extractLsb' n m) h,
      by simpa only [BitVec.extractLsb'_append_eq_right] using congrArg (BitVec.extractLsb' 0 n) h⟩
  · rintro ⟨rfl, rfl⟩
    rfl

/-- A masked comparison of a field is one of its upper part and one of its lower part. -/
theorem field_and_append_eq_iff {k m n : Nat} (x : BitVec k) (start : Nat) (maskHi hi : BitVec m) (maskLo lo : BitVec n) :
    x.extractLsb' start (m + n) &&& (maskHi ++ maskLo) = hi ++ lo ↔
      x.extractLsb' (start + n) m &&& maskHi = hi ∧ x.extractLsb' start n &&& maskLo = lo := by
  rw [← append_eq_append_iff, ← BitVec.and_append, BitVec.extractLsb'_append_extractLsb'_eq_extractLsb' rfl]

/-- Under a mask that keeps `OP`: the opcode is the row's and the bits of `ARG` that the mask keeps are 0. -/
theorem and_row_eq_iff (w : Word) (op : BitVec 8) (argMask : BitVec 32) :
    w &&& (BitVec.allOnes 8 ++ argMask) = op ++ (0 : BitVec 32) ↔ opField w = op ∧ argField w &&& argMask = 0 := by
  have split := field_and_append_eq_iff w 0 (BitVec.allOnes 8) op argMask 0
  rwa [BitVec.extractLsb'_eq_self, BitVec.and_allOnes] at split

/-- The row of a command without operands (R73, R75, R76). -/
theorem and_plainMask_eq_iff (w : Word) (op : BitVec 8) :
    w &&& 0xFFFFFFFFFF = op ++ (0 : BitVec 32) ↔ opField w = op ∧ argField w = 0 := by
  have row := and_row_eq_iff w op (BitVec.allOnes 32)
  rwa [BitVec.and_allOnes] at row

/-- The bits of `ARG` that SET's mask keeps are the reserved ones (R71, R74). -/
theorem argField_and_setMask_eq_zero_iff (w : Word) : argField w &&& 0xFFFF00FE = 0 ↔ setReserved w = 0 := by
  calc argField w &&& 0xFFFF00FE = 0
    _ ↔ w.extractLsb' 16 16 &&& BitVec.allOnes 16 = 0 ∧ w.extractLsb' 0 16 &&& 0x00FE = 0 :=
      field_and_append_eq_iff w 0 (BitVec.allOnes 16) 0 (0x00FE : BitVec 16) 0
    _ ↔ w.extractLsb' 16 16 &&& BitVec.allOnes 16 = 0 ∧
        w.extractLsb' 8 8 &&& 0 = 0 ∧ w.extractLsb' 0 8 &&& 0xFE = 0 :=
      and_congr_right' (field_and_append_eq_iff w 0 (0 : BitVec 8) 0 (0xFE : BitVec 8) 0)
    _ ↔ w.extractLsb' 16 16 &&& BitVec.allOnes 16 = 0 ∧
        w.extractLsb' 8 8 &&& 0 = 0 ∧ w.extractLsb' 1 7 &&& BitVec.allOnes 7 = 0 ∧ w.extractLsb' 0 1 &&& 0 = 0 :=
      and_congr_right' (and_congr_right' (field_and_append_eq_iff w 0 (BitVec.allOnes 7) 0 (0 : BitVec 1) 0))
    _ ↔ w.extractLsb' 16 16 = 0 ∧ w.extractLsb' 1 7 = 0 := by
      simp only [BitVec.and_allOnes, BitVec.and_zero, true_and, and_true, BitVec.ofNat_eq_ofNat]
    _ ↔ setReserved w = 0 := (append_eq_append_iff (hi' := 0) (lo' := 0)).symm

/-- SET's row (R74). -/
theorem and_setMask_eq_iff (w : Word) :
    w &&& 0xFFFFFF00FE = 0x0100000000 ↔ opField w = 0x01 ∧ setReserved w = 0 :=
  (and_row_eq_iff w 0x01 0xFFFF00FE).trans (and_congr_right' (argField_and_setMask_eq_zero_iff w))

/-- WAIT's row, which keeps no bit of `ARG` (R77). -/
theorem and_waitMask_eq_iff (w : Word) : w &&& 0xFF00000000 = 0x0400000000 ↔ opField w = 0x04 :=
  (and_row_eq_iff w 0x04 0).trans (and_iff_left BitVec.and_zero)

/-- Every word that the decoder reads as a command, branch by branch: an opcode of the table, its reserved bits 0, and the
fields as operands. -/
theorem decode_eq_ok_iff (w : Word) (i : Instr) : decode w = .ok i ↔
    opField w = 0x00 ∧ argField w = 0 ∧ i = .init ∨
    opField w = 0x01 ∧ setReserved w = 0 ∧ i = .set (sigField w) (lvlField w) ∨
    opField w = 0x02 ∧ argField w = 0 ∧ i = .read ∨
    opField w = 0x03 ∧ argField w = 0 ∧ i = .pulse ∨
    opField w = 0x04 ∧ i = .wait (argField w) := by
  unfold decode decodePlain
  split_ifs <;> simp_all [eq_comm (a := i)]

theorem decode_eq_init_iff (w : Word) : decode w = .ok .init ↔ opField w = 0x00 ∧ argField w = 0 := by
  simp [decode_eq_ok_iff]

theorem decode_eq_set_iff (w : Word) :
    (∃ sig lvl, decode w = .ok (.set sig lvl)) ↔ opField w = 0x01 ∧ setReserved w = 0 := by
  simp [decode_eq_ok_iff]

theorem decode_eq_read_iff (w : Word) : decode w = .ok .read ↔ opField w = 0x02 ∧ argField w = 0 := by
  simp [decode_eq_ok_iff]

theorem decode_eq_pulse_iff (w : Word) : decode w = .ok .pulse ↔ opField w = 0x03 ∧ argField w = 0 := by
  simp [decode_eq_ok_iff]

theorem decode_eq_wait_iff (w : Word) : (∃ d, decode w = .ok (.wait d)) ↔ opField w = 0x04 := by
  simp [decode_eq_ok_iff]

/-- Settles O1: mask and decoder say the same of the fields, and the words' numbers are `encode_toNat`'s. -/
theorem encodingRowsOfTheTable : Obligations.EncodingRowsOfTheTable := by
  refine ⟨fun w => ⟨?init, ?set, ?read, ?pulse, ?wait⟩, fun sig lvl d => ?words, by decide⟩
  case init => exact (decode_eq_init_iff w).trans (and_plainMask_eq_iff w 0x00).symm
  case set => exact (decode_eq_set_iff w).trans (and_setMask_eq_iff w).symm
  case read => exact (decode_eq_read_iff w).trans (and_plainMask_eq_iff w 0x02).symm
  case pulse => exact (decode_eq_pulse_iff w).trans (and_plainMask_eq_iff w 0x03).symm
  case wait => exact (decode_eq_wait_iff w).trans (and_waitMask_eq_iff w).symm
  case words =>
    exact ⟨encode_toNat .init, encode_toNat (.set sig lvl), encode_toNat .read, encode_toNat .pulse,
      encode_toNat (.wait d)⟩

end Sys2Proof
end

section
/-! O16: SET with a signal code that drives no line (R95). In a ready state the command is accepted, runs `SetSignal`, and
completes; a `SetSignal` that does nothing leaves only the handshake. -/

namespace Sys2Proof.Machine

/-- SET's arm of `exec` (R97). -/
theorem exec_set (sig : BitVec 8) (v : Level) (s : State) :
    exec (.set sig v) s = issue (.set sig v) (fun s => finish none (setSignal sig v s)) s := rfl

/-- SET in a ready state (R97): accepted, `SetSignal`, done. -/
theorem exec_set_ready (sig : BitVec 8) (v : Level) {s : State} (h : s.Ready) :
    exec (.set sig v) s = finish none (setSignal sig v (accept (.set sig v) s)) := by
  obtain ⟨hbusy, hmode, _⟩ := h
  rw [exec_set, issue_admitted _ _ hbusy (State.admits_of_allConfigured _ hmode)]

/-- A command accepted and finished with nothing done between has made no move: only the handshake changes (R84). -/
theorem finish_accept (i : Instr) (r : Option Level) {s : State} (h : s.rst = none) :
    finish r (accept i s) = .next (s.completed i 0 r) :=
  finish_running r (s := accept i s) h

/-- SET of a code that drives no line (R95, R96), in a ready state. -/
theorem exec_set_no_effect {sig : BitVec 8} (hsig : 3 ≤ sig.toNat) (v : Level) {s : State} (h : s.Ready) :
    exec (.set sig v) s = .next (s.completed (.set sig v) 0 none) := by
  rw [exec_set_ready sig v h, setSignal_no_effect hsig]
  obtain ⟨_, _, hrst⟩ := h
  exact finish_accept _ none hrst

/-- Settles O16: no code from 4 on names a driven line. -/
theorem setOfUnknownCodeIsIgnored : Obligations.SetOfUnknownCodeIsIgnored := by
  intro s sig v hsig
  have hundriven : 3 ≤ sig.toNat := Nat.le_of_succ_le hsig
  exact ⟨setSignal_no_effect hundriven v s, exec_set_no_effect hundriven v⟩

end Sys2Proof.Machine
end

section
/-! O21 and O22: the command PULSE (R111, R112). A ready block completes it with exactly one pulse and is ready again, so
`n` of them make a train of `n` pulses; the counts of a train (R38, R39) go pulse by pulse. -/

namespace Sys2Proof.Machine

/-! ### The command -/

/-- PULSE's arm of `exec` (R111). -/
theorem exec_pulse (s : State) : exec .pulse s = issue .pulse (fun s => finish none (pulseClock s)) s := rfl

/-- PULSE in a ready state (R111): one pulse and the handshake. -/
theorem exec_pulse_ready {s : State} (h : s.Ready) :
    exec .pulse s = .next ((s.pulsed 1).completed .pulse 4 none) := by
  obtain ⟨hbusy, hmode, hrst⟩ := h
  rw [exec_pulse, issue_admitted _ _ hbusy (State.admits_of_allConfigured _ hmode),
    pulseClock_running (s := accept .pulse s) hrst]
  exact finish_running none hrst

/-- The first of several equal commands. -/
theorem execTimes_succ_of_next {i : Instr} {s t : State} (h : exec i s = .next t) (n : Nat) :
    execTimes i (n + 1) s = execTimes i n t := by
  simp only [execTimes, h]

/-- `n` PULSE commands leave the events of `n` pulses and a record of each (R112). -/
theorem execTimes_pulse_ready (n : Nat) {s : State} (h : s.Ready) :
    ∃ t, execTimes .pulse n s = .next t ∧ t.tr = (s.pulsed n).tr ∧ t.pulseAt = (s.pulsed n).pulseAt := by
  induction n generalizing s with
  | zero => exact ⟨s, rfl, (List.append_nil _).symm, (List.append_nil _).symm⟩
  | succ n ih =>
    obtain ⟨hbusy, hmode, hrst⟩ := h
    obtain ⟨t, hrun, htr, hmarks⟩ := ih (s := (s.pulsed 1).completed .pulse 4 none) ⟨rfl, hmode, hrst⟩
    have hpulsed : (s.pulsed 1).pulsed n = s.pulsed (n + 1) := by rw [State.pulsed_pulsed, Nat.add_comm]
    rw [execTimes_succ_of_next (exec_pulse_ready ⟨hbusy, hmode, hrst⟩), ← hpulsed]
    exact ⟨t, hrun, htr, hmarks⟩

/-! ### What a train of pulses counts -/

/-- A pulse rises once, whatever TCK was before, and leaves it high (R111). -/
theorem rises_pulseEvents_append (unknown : Bool) (p : Option Level) (T : List Event) :
    rises unknown p (pulseEvents ++ T) = 1 + rises unknown (some 1) T := by
  simp [rises, pulseEvents, edges, tckWriteOf, edgeTo]

/-- A pulse falls where its write of 0 is an edge, and leaves TCK high (R111). -/
theorem falls_pulseEvents_append (unknown : Bool) (p : Option Level) (T : List Event) :
    falls unknown p (pulseEvents ++ T) = (edgeTo unknown p 0).toNat + falls unknown (some 1) T := by
  simp [falls, pulseEvents, edges, tckWriteOf, Bool.toNat, Bool.cond_eq_ite]

/-- A write of 0 is an edge over 1 and none over 0 (R39). -/
theorem edgeTo_some_zero_toNat (unknown : Bool) (p : Level) : (edgeTo unknown (some p) 0).toNat = p.toNat := by
  have hlevels : ∀ q : Level, (q != 0).toNat = q.toNat := by decide
  exact hlevels p

theorem rises_pulseTrain (unknown : Bool) (p : Option Level) (n : Nat) : rises unknown p (pulseTrain n) = n := by
  induction n generalizing p with
  | zero => rfl
  | succ n ih => rw [pulseTrain, rises_pulseEvents_append, ih, Nat.add_comm]

theorem writes_append (T U : List Event) (o : OutSignal) : writes (T ++ U) o = writes T o ++ writes U o :=
  List.filterMap_append

theorem length_writes_tck_pulseTrain (n : Nat) : (writes (pulseTrain n) .tck).length = 2 * n := by
  induction n with
  | zero => rfl
  | succ n ih =>
    rw [pulseTrain, writes_append, List.length_append, ih, show (writes pulseEvents .tck).length = 2 from rfl]
    omega

theorem settles_append (T U : List Event) : settles (T ++ U) = settles T + settles U :=
  List.count_append

theorem settles_pulseTrain (n : Nat) : settles (pulseTrain n) = 2 * n := by
  induction n with
  | zero => rfl
  | succ n ih =>
    rw [pulseTrain, settles_append, ih, show settles pulseEvents = 2 by decide]
    omega

/-- Over a trace whose pulses are recorded, `n` appended pulses count as `n` (R38). -/
theorem State.PulsesRecorded.pulses_of_appended {s t : State} {n : Nat} (h : s.PulsesRecorded)
    (htr : t.tr = (s.pulsed n).tr) (hmarks : t.pulseAt = (s.pulsed n).pulseAt) :
    t.pulses s.tr.length t.tr.length = n := by
  have hlength : t.tr.length = s.tr.length + 4 * n := by simp [htr, pulseTrain_length]
  have hnew : pulsesIn (pulseStarts s.tr.length 4 n) s.tr.length (s.tr.length + 4 * n) =
      min (4 * n / 4) n - (0 + 3) / 4 := pulsesIn_pulseStarts s.tr.length n (Nat.zero_le _)
  rw [State.pulses, hlength, hmarks, State.pulsed_pulseAt, pulsesIn_append, pulsesIn_of_recorded h le_rfl, hnew]
  omega

/-! ### The statements -/

/-- Settles O21: PULSE is one pulse, whose edges are those of a pulse followed by nothing. -/
theorem pulseDrivesLowThenHigh : Obligations.PulseDrivesLowThenHigh := by
  intro s unknown hready
  refine ⟨⟨_, exec_pulse_ready hready, rfl⟩, ?rises, ?falls⟩
  case rises => exact rises_pulseEvents_append unknown s.lvl.tck []
  case falls =>
    refine (falls_pulseEvents_append unknown s.lvl.tck []).trans ?_
    cases s.lvl.tck with
    | none => rfl
    | some p => exact edgeTo_some_zero_toNat unknown p

/-- Settles O22, by induction on the number of commands for the run and on the length of the train for its counts. -/
theorem pulsesAreNeverCombined : Obligations.PulsesAreNeverCombined := by
  intro s n hready
  obtain ⟨t, hrun, htr, hmarks⟩ := execTimes_pulse_ready n hready
  exact ⟨t, hrun, htr, hmarks, fun hrecorded => hrecorded.pulses_of_appended htr hmarks,
    fun unknown p => rises_pulseTrain unknown p n, length_writes_tck_pulseTrain n, settles_pulseTrain n⟩

end Sys2Proof.Machine
end

section
/-! O24: WAIT under strategy 1 (R123, R124). A ready block runs the counted pulse loop for the 48-bit product `d × CFG.CPM`
and completes; the product is exact, so the loop makes `d × CFG.CPM` pulses. -/

namespace Sys2Proof.Machine

/-! ### The product -/

/-- 32 by 16 bits: the greatest product is that of the greatest operands (R124). -/
theorem duration_mul_cpm_le (d : BitVec 32) (cpm : BitVec 16) : d.toNat * cpm.toNat ≤ 281470681677825 :=
  calc d.toNat * cpm.toNat
    _ ≤ (2 ^ 32 - 1) * (2 ^ 16 - 1) := Nat.mul_le_mul (Nat.le_pred_of_lt d.isLt) (Nat.le_pred_of_lt cpm.isLt)
    _ = 281470681677825 := by norm_num

/-- The product fits in its 48 bits (R124, R137 item 1). -/
theorem toNat_pulseTarget (d : BitVec 32) (cpm : BitVec 16) : (pulseTarget d cpm).toNat = d.toNat * cpm.toNat := by
  have hfits : d.toNat * cpm.toNat < 2 ^ 48 := (duration_mul_cpm_le d cpm).trans_lt (by norm_num)
  rw [pulseTarget, BitVec.toNat_mul, BitVec.toNat_setWidth_of_le (by decide), BitVec.toNat_setWidth_of_le (by decide),
    Nat.mod_eq_of_lt hfits]

/-! ### The command -/

/-- WAIT's arm of `exec` (R120): the strategy is read once, at the start. -/
theorem exec_wait (d : BitVec 32) (s : State) : exec (.wait d) s = execWait d s := rfl

/-- WAIT under strategy 1 in a ready state (R123): accepted, the pulse loop run, done. -/
theorem exec_wait_clockDriven (d : BitVec 32) {s : State} (h : s.Ready) (hs : s.cfg.strategy = .clockDriven) :
    exec (.wait d) s = waitClockDriven d (accept (.wait d) s) := by
  obtain ⟨hbusy, hmode, _⟩ := h
  rw [exec_wait, execWait, issue_admitted _ _ hbusy (State.admits_of_allConfigured _ hmode)]
  simp only [accept_cfg, hs]

/-- WAIT under strategy 1 in a ready state (R123): the pulses of the product, counted, and the handshake. -/
theorem exec_wait_clockDriven_ready (d : BitVec 32) {s : State} (h : s.Ready) (hs : s.cfg.strategy = .clockDriven) :
    exec (.wait d) s = .next
      { (s.completed (.wait d) (4 * (pulseTarget d s.cfg.cpm).toNat) none).pulsed (pulseTarget d s.cfg.cpm).toNat with
        cyc := pulseTarget d s.cfg.cpm
        acc := pulseTarget d s.cfg.cpm } := by
  rw [exec_wait_clockDriven d h hs, waitClockDriven]
  obtain ⟨_, _, hrst⟩ := h
  rw [countedPulses_running _ (s := accept (.wait d) s) hrst]
  exact finish_running none hrst

/-- Settles O24: the pulse loop runs for the product, which is exact, and each of its pulses rises once. -/
theorem clockDrivenWait : Obligations.ClockDrivenWait := by
  intro s d hready hstrategy
  refine ⟨duration_mul_cpm_le d s.cfg.cpm, toNat_pulseTarget d s.cfg.cpm, ?run, fun unknown p => rises_pulseTrain unknown p _⟩
  case run =>
    rw [← toNat_pulseTarget, BitVec.ofNat_toNat, BitVec.setWidth_eq]
    exact ⟨_, exec_wait_clockDriven_ready d hready hstrategy, rfl⟩

end Sys2Proof.Machine
end

section
/-! O12: admission before INIT, and the pins after it (R179). A command presented to an idle block is refused unless admitted,
and INIT is always admitted. While `rst` is not going to be asserted, INIT alone writes MODE (R25), with the modes of R90: said
of the ends of a command, of each command, of a command going on, and so of a step. -/

namespace Sys2Proof.Machine

/-! ### Admission -/

theorem State.admits_eq_allConfigured {i : Instr} (hi : i ≠ .init) (s : State) : s.admits i = s.mode.allConfigured := by
  cases i with
  | init => exact absurd rfl hi
  | set | read | pulse | wait => rfl

theorem Modes.allConfigured_eq_false {m : Modes} (h : ∃ sig, m.get sig = .unconf) : m.allConfigured = false := by
  obtain ⟨sig, hsig⟩ := h
  exact Bool.eq_false_iff.mpr fun hall => m.allConfigured_iff.mp hall sig hsig

/-- INIT's arm of `exec` (R90). -/
theorem exec_init (s : State) : exec .init s =
    issue .init (fun s => finish none { configureAll (Config.initOrder s.env.draws) s with mode := .configured }) s := rfl

/-- READ's arm of `exec` (R98). -/
theorem exec_read (s : State) :
    exec .read s = issue .read (fun s => finish (some (padSample s).1) (padSample s).2) s := rfl

/-- Every command goes through `issue` (R84, R179). -/
theorem exists_exec_eq_issue (i : Instr) (s : State) : ∃ run, exec i s = issue i run s := by
  cases i with
  | init => exact ⟨_, exec_init s⟩
  | set sig v => exact ⟨_, exec_set sig v s⟩
  | read => exact ⟨_, exec_read s⟩
  | pulse => exact ⟨_, exec_pulse s⟩
  | wait d => exact ⟨_, exec_wait d s⟩

theorem exec_not_admitted {i : Instr} {s : State} (hbusy : s.busy = false) (hadmits : s.admits i = false) :
    exec i s = .refused .pinsUnconfigured := by
  obtain ⟨run, hexec⟩ := exists_exec_eq_issue i s
  rw [hexec, issue_not_admitted i run hbusy hadmits]

/-- A presented command that ends in a next state has found the block busy, or has been accepted and run (R84, R179). -/
theorem eq_or_run_of_issue {i : Instr} {run : State → Host.Outcome State Fault Refusal} {s t : State}
    (h : issue i run s = .next t) : t = s ∨ run (accept i s) = .next t := by
  unfold issue at h
  split_ifs at h
  · cases h
    exact .inl rfl
  · exact .inr h

/-! ### INIT -/

/-- INIT in an idle state (R90, R91): its four calls, the modes they leave, and the handshake. -/
theorem exec_init_idle {s : State} (h : s.Idle) : exec .init s = .next
    { (s.completed .init 4 none).logged ((signalOrder (Config.initOrder s.env.draws)).map fun sig => .cfg sig (initMode sig)) with
      mode := .configured } := by
  obtain ⟨hbusy, hrst⟩ := h
  rw [exec_init, issue_admitted _ _ hbusy rfl, configureAll_running _ (s := accept .init s) hrst]
  exact finish_running none hrst

/-! ### What a command does to the modes -/

theorem mode_of_finish {r : Option Level} {s t : State} (h : finish r s = .next t) (hrst : s.rst = none) :
    t.mode = s.mode := by
  rw [finish_running r hrst] at h
  cases h
  rfl

theorem mode_of_suspend {s t : State} (h : suspend s = .next t) (hrst : s.rst = none) : t.mode = s.mode := by
  rw [suspend_running hrst] at h
  cases h
  rfl

/-- `SetSignal` writes latches only (R93), whichever line its code names. -/
theorem setSignal_rst_mode (sig : BitVec 8) (v : Level) {s : State} (hrst : s.rst = none) :
    (setSignal sig v s).rst = none ∧ (setSignal sig v s).mode = s.mode := by
  have hcodes : sig = 0 ∨ sig = 1 ∨ sig = 2 ∨ 3 ≤ sig.toNat := by bv_omega
  obtain rfl | rfl | rfl | hundriven := hcodes
  · rw [setSignal_tck v hrst]
    exact ⟨hrst, rfl⟩
  · rw [setSignal_tms v hrst]
    exact ⟨hrst, rfl⟩
  · rw [setSignal_tdi v hrst]
    exact ⟨hrst, rfl⟩
  · rw [setSignal_no_effect hundriven]
    exact ⟨hrst, rfl⟩

theorem mode_of_timerIteration {d : BitVec 32} {s t : State} (h : timerIteration d s = .next t) (hrst : s.rst = none) :
    t.mode = s.mode := by
  rw [timerIteration_running d hrst] at h
  split_ifs at h
  · exact (mode_of_finish h hrst :)
  · exact (mode_of_suspend h hrst :)

theorem mode_of_sleepPoll {s t : State} (h : sleepPoll s = .next t) (hrst : s.rst = none) : t.mode = s.mode := by
  rw [sleepPoll_running hrst] at h
  split_ifs at h
  · exact (mode_of_finish h hrst :)
  · exact (mode_of_suspend h hrst :)

/-- The end of strategies 1 and 3's counted loop (R123, R129). -/
theorem mode_of_finish_countedPulses {n : BitVec 48} {s t : State} (h : finish none (countedPulses n s) = .next t)
    (hrst : s.rst = none) : t.mode = s.mode := by
  rw [countedPulses_running n hrst] at h
  exact (mode_of_finish h hrst :)

theorem mode_of_waitTimerDriven {d : BitVec 32} {s t : State} (h : waitTimerDriven d s = .next t) (hrst : s.rst = none) :
    t.mode = s.mode := by
  rw [waitTimerDriven, readClock_running hrst] at h
  exact (mode_of_timerIteration h hrst :)

theorem mode_of_waitThreshold {d : BitVec 32} {s t : State} (h : waitThreshold d s = .next t) (hrst : s.rst = none) :
    t.mode = s.mode := by
  unfold waitThreshold at h
  split_ifs at h
  · rw [setSignal_tck _ hrst, sleepCall_running _ (by exact hrst)] at h
    exact (mode_of_sleepPoll h hrst :)
  · exact mode_of_finish_countedPulses h hrst

/-- A presented command that leaves the modes alone once accepted leaves them alone. -/
theorem mode_of_issue {i : Instr} {run : State → Host.Outcome State Fault Refusal} {s t : State}
    (h : issue i run s = .next t) (hrun : run (accept i s) = .next t → t.mode = s.mode) : t.mode = s.mode := by
  obtain rfl | hran := eq_or_run_of_issue h
  · rfl
  · exact hrun hran

/-- WAIT leaves the modes alone under every strategy (R120, R25). -/
theorem mode_of_exec_wait {d : BitVec 32} {s t : State} (h : exec (.wait d) s = .next t) (hrst : s.rst = none) :
    t.mode = s.mode := by
  rw [exec_wait, execWait] at h
  refine mode_of_issue h fun hrun => ?_
  split at hrun
  · exact (mode_of_finish_countedPulses hrun hrst :)
  · exact (mode_of_waitTimerDriven hrun hrst :)
  · exact (mode_of_waitThreshold hrun hrst :)

/-- INIT alone writes MODE, with the modes of R90 (R25). -/
theorem mode_of_exec {i : Instr} {s t : State} (h : exec i s = .next t) (hrst : s.rst = none) :
    t.mode = s.mode ∨ i = .init ∧ t.mode = .configured := by
  cases i with
  | init =>
    rw [exec_init] at h
    obtain rfl | hrun := eq_or_run_of_issue h
    · exact .inl rfl
    · rw [configureAll_running _ (s := accept .init s) hrst] at hrun
      exact .inr ⟨rfl, (mode_of_finish hrun hrst :)⟩
  | set sig v =>
    rw [exec_set] at h
    refine .inl (mode_of_issue h fun hrun => ?_)
    obtain ⟨hrst', hmode⟩ := setSignal_rst_mode sig v (s := accept (.set sig v) s) hrst
    exact (mode_of_finish hrun hrst').trans hmode
  | read =>
    rw [exec_read] at h
    refine .inl (mode_of_issue h fun hrun => ?_)
    rw [padSample_running (s := accept .read s) hrst] at hrun
    exact (mode_of_finish hrun hrst :)
  | pulse =>
    rw [exec_pulse] at h
    refine .inl (mode_of_issue h fun hrun => ?_)
    rw [pulseClock_running (s := accept .pulse s) hrst] at hrun
    exact (mode_of_finish hrun hrst :)
  | wait d => exact .inl (mode_of_exec_wait h hrst)

/-- A command going on is a WAIT, or at its end (log 26). -/
theorem mode_of_continueCommand {s t : State} (h : continueCommand s = .next t) (hrst : s.rst = none) :
    t.mode = s.mode := by
  unfold continueCommand at h
  split at h
  · split at h
    · exact mode_of_timerIteration h hrst
    · split_ifs at h
      · exact mode_of_sleepPoll h hrst
      · exact mode_of_finish h hrst
    · exact mode_of_finish h hrst
  · exact mode_of_finish h hrst

/-- An idle block's step that ends in a next state: nothing is presented, or the presented command is run (R81). -/
theorem eq_or_exec_of_step_idle {s t : State} (h : step s = .next t) (hbusy : s.busy = false) (hrst : s.rst = none) :
    t = s ∨ ∃ i, exec i s = .next t := by
  rw [step, if_neg (by simp [State.inReset, hrst]), if_neg (by simp [hbusy])] at h
  split at h
  · cases h
    exact .inl rfl
  · split at h
    · exact .inr ⟨_, h⟩
    · cases h

/-- A step without a reset leaves the modes alone, or as INIT leaves them (R25). -/
theorem mode_of_step {s t : State} (h : step s = .next t) (hrst : s.rst = none) :
    t.mode = s.mode ∨ t.mode = .configured := by
  cases hbusy : s.busy with
  | true =>
    rw [step_busy hbusy hrst] at h
    exact .inl (mode_of_continueCommand h hrst)
  | false =>
    obtain rfl | ⟨i, hexec⟩ := eq_or_exec_of_step_idle h hbusy hrst
    · exact .inl rfl
    · exact (mode_of_exec hexec hrst).imp_right And.right

/-! ### The statement -/

/-- Settles O12: admission reads the modes, and INIT alone writes them. -/
theorem commandsBeforeInit : Obligations.CommandsBeforeInit := by
  refine ⟨?refused, ?init, ?kept⟩
  case refused =>
    intro i s hi hbusy hunconf
    refine exec_not_admitted hbusy ?_
    rw [State.admits_eq_allConfigured hi, Modes.allConfigured_eq_false hunconf]
  case init => exact fun s hidle => ⟨_, exec_init_idle hidle, rfl⟩
  case kept =>
    intro s t hrst hconfigured hstep
    obtain hsame | hinit := mode_of_step hstep hrst
    · rwa [hsame]
    · rw [hinit]
      rfl

end Sys2Proof.Machine
end

section
/-! O2 to O6: decoder and encoder (R70 to R80) and the serialised word (R53). A word is its opcode beside its argument, and
SET's argument is its reserved bits beside its two operands; both directions of the round trip read a word so. -/

namespace Sys2Proof

/-! ### A word and its fields -/

/-- Two fields side by side are one. -/
theorem extractLsb'_append_next {k : Nat} (x : BitVec k) (start m n : Nat) :
    x.extractLsb' (start + n) m ++ x.extractLsb' start n = x.extractLsb' start (m + n) :=
  BitVec.extractLsb'_append_extractLsb'_eq_extractLsb' rfl

/-- A word is `OP` beside `ARG` (R70). -/
theorem opField_append_argField (w : Word) : opField w ++ argField w = w :=
  (extractLsb'_append_next w 0 8 32).trans BitVec.extractLsb'_eq_self

theorem opField_append (op : BitVec 8) (arg : BitVec 32) : opField (op ++ arg) = op :=
  BitVec.extractLsb'_append_eq_left

theorem argField_append (op : BitVec 8) (arg : BitVec 32) : argField (op ++ arg) = arg :=
  BitVec.extractLsb'_append_eq_right

/-- `ARG` as SET divides it (R71). -/
theorem argField_eq_setFields (w : Word) :
    argField w = w.extractLsb' 16 16 ++ sigField w ++ w.extractLsb' 1 7 ++ lvlField w := by
  symm
  calc w.extractLsb' 16 16 ++ sigField w ++ w.extractLsb' 1 7 ++ lvlField w
    _ = w.extractLsb' 8 24 ++ w.extractLsb' 1 7 ++ lvlField w :=
      congrArg (fun x : BitVec 24 => x ++ w.extractLsb' 1 7 ++ lvlField w) (extractLsb'_append_next w 8 16 8)
    _ = w.extractLsb' 1 31 ++ lvlField w :=
      congrArg (fun x : BitVec 31 => x ++ lvlField w) (extractLsb'_append_next w 1 24 7)
    _ = argField w := extractLsb'_append_next w 0 31 1

/-- The reserved bits of SET are 0 where both their parts are (R71). -/
theorem setReserved_eq_zero_iff_parts (w : Word) :
    setReserved w = 0 ↔ w.extractLsb' 16 16 = 0 ∧ w.extractLsb' 1 7 = 0 :=
  append_eq_append_iff (hi' := 0) (lo' := 0)

/-! ### The round trips -/

/-- A word is told by its two fields. -/
theorem append_eq_of_fields {w : Word} {op : BitVec 8} {arg : BitVec 32} (hop : opField w = op) (harg : argField w = arg) :
    op ++ arg = w := by
  rw [← hop, ← harg]
  exact opField_append_argField w

/-- A valid word is its opcode beside its operands, with nothing left over. -/
theorem encode_of_decode_eq_ok {w : Word} {i : Instr} (h : decode w = .ok i) : encode i = w := by
  obtain ⟨hop, harg, rfl⟩ | ⟨hop, hreserved, rfl⟩ | ⟨hop, harg, rfl⟩ | ⟨hop, harg, rfl⟩ | ⟨hop, rfl⟩ :=
    (decode_eq_ok_iff w i).mp h
  · exact append_eq_of_fields hop harg
  · obtain ⟨hhi, hlo⟩ := (setReserved_eq_zero_iff_parts w).mp hreserved
    refine append_eq_of_fields hop ?_
    rw [argField_eq_setFields, hhi, hlo]
  · exact append_eq_of_fields hop harg
  · exact append_eq_of_fields hop harg
  · exact append_eq_of_fields hop rfl

/-- The fields of SET's word are its operands and no reserved bit (R71, R74). -/
theorem encode_set_fields (sig : BitVec 8) (v : BitVec 1) :
    setReserved (encode (.set sig v)) = 0 ∧ sigField (encode (.set sig v)) = sig ∧ lvlField (encode (.set sig v)) = v := by
  have hword : (encode (.set sig v)).toNat = 0x0100000000 + 256 * sig.toNat + v.toNat := encode_toNat (.set sig v)
  have hsig := sig.isLt
  have hv := v.isLt
  refine ⟨(setReserved_eq_zero_iff _).mpr ?_, BitVec.eq_of_toNat_eq ?_, BitVec.eq_of_toNat_eq ?_⟩
  · omega
  · rw [sigField_toNat]
    omega
  · rw [lvlField_toNat]
    omega

theorem decode_encode (i : Instr) : decode (encode i) = .ok i := by
  rw [decode_eq_ok_iff]
  cases i with
  | init => exact .inl ⟨opField_append 0x00 0, argField_append 0x00 0, rfl⟩
  | set sig v =>
    obtain ⟨hreserved, hsig, hv⟩ := encode_set_fields sig v
    exact .inr (.inl ⟨opField_append 0x01 _, hreserved, by rw [hsig, hv]⟩)
  | read => exact .inr (.inr (.inl ⟨opField_append 0x02 0, argField_append 0x02 0, rfl⟩))
  | pulse => exact .inr (.inr (.inr (.inl ⟨opField_append 0x03 0, argField_append 0x03 0, rfl⟩)))
  | wait d => exact .inr (.inr (.inr (.inr ⟨opField_append 0x04 d, congrArg Instr.wait (argField_append 0x04 d).symm⟩)))

/-- Settles O2: the fields of each command's word are what its row of the table says. -/
theorem decodeOfEncode : Obligations.DecodeOfEncode := fun i _ => decode_encode i

/-- Settles O3, branch by branch of the decoder. -/
theorem encodeOfDecoded : Obligations.EncodeOfDecoded := fun _ _ h => encode_of_decode_eq_ok h

/-! ### Invalid words -/

/-- Settles O4: the decoder's branches as arithmetic on the word's number. -/
theorem invalidWords : Obligations.InvalidWords := by
  intro w
  rw [decode_eq, opField_toNat, argField_toNat]
  constructor
  · split_ifs <;> simp <;> omega
  · split_ifs <;> simp <;> omega

/-- Settles O5 by evaluating the decoder. -/
theorem specWordsDecode : Obligations.SpecWordsDecode := by
  unfold Obligations.SpecWordsDecode
  decide

/-! ### The serialised word -/

/-- Five bytes, the `OP` byte first, make the word again (R53). -/
theorem decodeBytes_toBytes_append (w : Word) (rest : List Byte) :
    decodeBytes (toBytes w ++ rest) = (decode w).map fun i => (i, rest) := by
  have h24 : w.extractLsb' 32 8 ++ w.extractLsb' 24 8 = w.extractLsb' 24 16 := extractLsb'_append_next w 24 8 8
  have h16 : w.extractLsb' 24 16 ++ w.extractLsb' 16 8 = w.extractLsb' 16 24 := extractLsb'_append_next w 16 16 8
  have h8 : w.extractLsb' 16 24 ++ w.extractLsb' 8 8 = w.extractLsb' 8 32 := extractLsb'_append_next w 8 24 8
  have h0 : w.extractLsb' 8 32 ++ w.extractLsb' 0 8 = w :=
    (extractLsb'_append_next w 0 32 8).trans BitVec.extractLsb'_eq_self
  simp only [toBytes, List.cons_append, decodeBytes, h24, h16, h8, h0]
  cases decode w <;> rfl

theorem map_toNat_toBytes (w : Word) : (toBytes w).map BitVec.toNat =
    [w.toNat / 2 ^ 32, w.toNat / 2 ^ 24 % 256, w.toNat / 2 ^ 16 % 256, w.toNat / 2 ^ 8 % 256, w.toNat % 256] := by
  have htop : w.toNat / 2 ^ 32 < 256 := by
    have := w.isLt
    omega
  simp only [toBytes, List.map_cons, List.map_nil, BitVec.extractLsb'_toNat, Nat.shiftRight_eq_div_pow]
  rw [Nat.mod_eq_of_lt htop, Nat.pow_zero, Nat.div_one]

/-- Settles O6: the bytes joined again are the word. -/
theorem serialisedWordIsBigEndian : Obligations.SerialisedWordIsBigEndian := by
  intro w rest
  refine ⟨?_, map_toNat_toBytes w⟩
  rw [decodeBytes_toBytes_append]
  cases decode w <;> rfl

end Sys2Proof
end

section
/-! Commands as operations. A step of a command is its operations, then its end: complete with a result, or to be gone on with
(R84; log 19). The operations of a command's first step and of a further one are each one function on states, chosen by the
state at the start of the step; what a step keeps, what it does not read and where a reset cuts it are said of that function. -/

namespace Sys2Proof.Machine

/-! ### The end of a step -/

/-- How a step of a command ends. -/
inductive StepEnd where
  | complete (result : Option Level)
  | goesOn

/-- The end of a step, as an outcome. -/
def StepEnd.outcome : StepEnd → State → Host.Outcome State Fault Refusal
  | .complete result => finish result
  | .goesOn => suspend

@[simp] theorem StepEnd.outcome_complete (r : Option Level) (u : State) : (complete r).outcome u = finish r u := rfl

@[simp] theorem StepEnd.outcome_goesOn (u : State) : goesOn.outcome u = suspend u := rfl

/-- The re-check of strategy 2 after a reading (R126). -/
def timerEnd (d : BitVec 32) (u : State) : StepEnd :=
  if waitElapsed u.env.now u.t0 d then .complete none else .goesOn

/-- The poll of a block asleep in environment `e` (R163, R164). -/
def sleepEnd (e : Env) : StepEnd :=
  if e.next.wake then .complete none else .goesOn

theorem StepEnd.outcome_in_reset (e : StepEnd) {u : State} (h : u.rst = some 0) : e.outcome u = resetEvent u := by
  cases e with
  | complete r => exact finish_in_reset r h
  | goesOn => exact suspend_in_reset h

/-- While `rst` is not going to be asserted, the end of a step is a next state, and touches the handshake only. -/
theorem StepEnd.outcome_running (e : StepEnd) {u : State} (h : u.rst = none) :
    ∃ busy done rdata cp, e.outcome u = .next { u with busy := busy, done := done, rdata := rdata, cp := cp } := by
  cases e with
  | complete r => exact ⟨_, _, _, _, finish_running r h⟩
  | goesOn => exact ⟨_, _, _, _, suspend_running h⟩

/-! ### The operations of a step -/

/-- The start of strategy 2: `T0 <- Now()` (R126). -/
def timerStartOps (s : State) : State := { (readClock s).2 with t0 := (readClock s).1 }

/-- An iteration of strategy 2's loop (R126). -/
def timerLoopOps (s : State) : State := (readClock (pulseClock s)).2

/-- Strategy 3's long branch until the block is asleep (R129). -/
def sleepOps (d : BitVec 32) (s : State) : State := sleepCall (sleepMs d) (setSignal 0 0 s)

/-- The operations of the first step of a command issued in `s₀`. -/
def firstOps (s₀ : State) : Instr → State → State
  | .init => fun s => { configureAll (Config.initOrder s₀.env.draws) s with mode := .configured }
  | .set sig v => setSignal sig v
  | .read => fun s => (padSample s).2
  | .pulse => pulseClock
  | .wait d =>
    match s₀.cfg.strategy with
    | .clockDriven => countedPulses (pulseTarget d s₀.cfg.cpm)
    | .timerDriven => fun s => timerLoopOps (timerStartOps s)
    | .thresholdDriven =>
      if isLongWait d then fun s => microOp id (sleepOps d s) else countedPulses (d.setWidth 48)

/-- How the first step of a command issued in `s₀` ends, its operations having led to `u`. -/
def firstEnd (s₀ : State) (i : Instr) (u : State) : StepEnd :=
  match i with
  | .init => .complete none
  | .set _ _ => .complete none
  | .read => .complete (some (sampledLevel u.env.tdo))
  | .pulse => .complete none
  | .wait d =>
    match s₀.cfg.strategy with
    | .clockDriven => .complete none
    | .timerDriven => timerEnd d u
    | .thresholdDriven => if isLongWait d then sleepEnd (s₀.env.after 3) else .complete none

/-- The state the operations of a command's first step lead to, the command accepted. -/
def firstState (i : Instr) (s : State) : State := firstOps s i (accept i s)

/-- The operations of a further step of the command in `s₀`. -/
def laterOps (s₀ : State) : State → State :=
  match decode s₀.cur with
  | .ok (.wait d) =>
    match s₀.cfg.strategy with
    | .clockDriven => id
    | .timerDriven => timerLoopOps
    | .thresholdDriven => if isLongWait d then microOp id else id
  | _ => id

/-- How a further step of the command in `s₀` ends, its operations having led to `u`. -/
def laterEnd (s₀ u : State) : StepEnd :=
  match decode s₀.cur with
  | .ok (.wait d) =>
    match s₀.cfg.strategy with
    | .clockDriven => .complete none
    | .timerDriven => timerEnd d u
    | .thresholdDriven => if isLongWait d then sleepEnd s₀.env else .complete none
  | _ => .complete none

theorem firstOps_init (s₀ s : State) : firstOps s₀ .init s =
    { configureAll (Config.initOrder s₀.env.draws) s with mode := .configured } := rfl

theorem firstOps_set (s₀ s : State) (sig : BitVec 8) (v : Level) : firstOps s₀ (.set sig v) s = setSignal sig v s := rfl

theorem firstOps_read (s₀ s : State) : firstOps s₀ .read s = (padSample s).2 := rfl

theorem firstOps_pulse (s₀ s : State) : firstOps s₀ .pulse s = pulseClock s := rfl

theorem firstOps_wait_clockDriven {s₀ : State} (h : s₀.cfg.strategy = .clockDriven) (d : BitVec 32) (s : State) :
    firstOps s₀ (.wait d) s = countedPulses (pulseTarget d s₀.cfg.cpm) s := by
  simp only [firstOps, h]

theorem firstOps_wait_timerDriven {s₀ : State} (h : s₀.cfg.strategy = .timerDriven) (d : BitVec 32) (s : State) :
    firstOps s₀ (.wait d) s = timerLoopOps (timerStartOps s) := by
  simp only [firstOps, h]

theorem firstOps_wait_long {s₀ : State} (h : s₀.cfg.strategy = .thresholdDriven) {d : BitVec 32} (hd : isLongWait d = true)
    (s : State) : firstOps s₀ (.wait d) s = microOp id (sleepOps d s) := by
  simp only [firstOps, h, hd, if_true]

theorem firstOps_wait_short {s₀ : State} (h : s₀.cfg.strategy = .thresholdDriven) {d : BitVec 32}
    (hd : ¬ isLongWait d = true) (s : State) : firstOps s₀ (.wait d) s = countedPulses (d.setWidth 48) s := by
  simp only [firstOps, h, if_neg hd]

/-- The operations of a further step are an iteration of strategy 2, a poll, or none. -/
theorem laterOps_cases (s₀ : State) : laterOps s₀ = timerLoopOps ∨ laterOps s₀ = microOp id ∨ laterOps s₀ = id := by
  unfold laterOps
  cases decode s₀.cur with
  | error e => exact .inr (.inr rfl)
  | ok i =>
    cases i with
    | init | set | read | pulse => exact .inr (.inr rfl)
    | wait d =>
      cases s₀.cfg.strategy with
      | clockDriven => exact .inr (.inr rfl)
      | timerDriven => exact .inl rfl
      | thresholdDriven =>
        dsimp only
        split_ifs
        · exact .inr (.inl rfl)
        · exact .inr (.inr rfl)

/-! ### Their moves -/

/-- Either all moves of an operation are made, or `rst` is asserted at its end. -/
theorem Cuts.env_or_in_reset {n : Nat} {F : State → State} (hF : Cuts n F) (s : State) :
    (F s).env = s.env.after n ∨ (F s).rst = some 0 := by
  cases hrst : s.rst with
  | none => exact .inl (hF.run s hrst).2
  | some k =>
    by_cases hk : k < n
    · exact .inr (hF.cut s k hrst hk).1
    · rw [hF.late s k hrst (Nat.le_of_not_lt hk)]
      exact .inl (hF.run (s.withRst none) rfl).2

theorem cuts_id : Cuts 0 id := by
  apply cuts_update <;> intros <;> rfl

theorem cuts_sleepOps (d : BitVec 32) : Cuts 3 (sleepOps d) :=
  Cuts.comp (cuts_setSignal 0 0) (cuts_sleepCall (sleepMs d))

theorem isLongWait_iff (d : BitVec 32) : isLongWait d = true ↔ 50 < d.toNat := by
  simp [isLongWait, cutoff, BitVec.lt_def]

theorem cuts_firstOps (s₀ : State) (i : Instr) : Cuts (moveCount s₀ i) (firstOps s₀ i) := by
  cases i with
  | init =>
    have hmodes : Cuts 0 fun s : State => { s with mode := .configured } := by
      apply cuts_update <;> intros <;> rfl
    exact Cuts.comp (cuts_configureAll _) hmodes
  | set sig v => exact cuts_setSignal sig v
  | read => exact cuts_padSample
  | pulse => exact cuts_pulseClock
  | wait d =>
    simp only [moveCount, firstOps, ← isLongWait_iff]
    cases s₀.cfg.strategy with
    | clockDriven =>
      rw [← toNat_pulseTarget]
      exact cuts_countedPulses _
    | timerDriven => exact Cuts.comp cuts_timerStart cuts_timerIteration
    | thresholdDriven =>
      dsimp only
      split_ifs
      · exact Cuts.comp (cuts_sleepOps d) cuts_sleepPoll
      · rw [← BitVec.toNat_setWidth_of_le (b := d) (show 32 ≤ 48 by decide)]
        exact cuts_countedPulses _

theorem cuts_laterOps (s₀ : State) : Cuts (laterMoveCount s₀) (laterOps s₀) := by
  unfold laterMoveCount laterOps
  cases decode s₀.cur with
  | error e => exact cuts_id
  | ok i =>
    cases i with
    | init | set | read | pulse => exact cuts_id
    | wait d =>
      cases s₀.cfg.strategy with
      | clockDriven => exact cuts_id
      | timerDriven => exact cuts_timerIteration
      | thresholdDriven =>
        simp only [← isLongWait_iff]
        split_ifs
        · exact cuts_sleepPoll
        · exact cuts_id

/-! ### The step of a command -/

/-- A poll is a move and its end (R163, R164). -/
theorem sleepPoll_eq (s : State) : sleepPoll s = (sleepEnd s.env).outcome (microOp id s) := by
  by_cases hrst : s.rst = some 0
  · rw [microOp_in_reset _ hrst, StepEnd.outcome_in_reset _ hrst]
    simp [sleepPoll, State.inReset, hrst]
  · rw [sleepPoll, if_neg (by simpa [State.inReset] using hrst), sleepEnd]
    split_ifs <;> rfl

/-- The first poll of a long wait comes after three moves, unless `rst` has cut it short. -/
theorem sleepPoll_sleepOps (d : BitVec 32) (s : State) :
    sleepPoll (sleepOps d s) = (sleepEnd (s.env.after 3)).outcome (microOp id (sleepOps d s)) := by
  rw [sleepPoll_eq]
  obtain henv | hrst := (cuts_sleepOps d).env_or_in_reset s
  · rw [henv]
  · rw [microOp_in_reset _ hrst, StepEnd.outcome_in_reset _ hrst, StepEnd.outcome_in_reset _ hrst]

theorem timerIteration_eq (d : BitVec 32) (s : State) :
    timerIteration d s = (timerEnd d (timerLoopOps s)).outcome (timerLoopOps s) := by
  show (if waitElapsed (timerLoopOps s).env.now (timerLoopOps s).t0 d then finish none (timerLoopOps s)
    else suspend (timerLoopOps s)) = _
  rw [timerEnd]
  split_ifs <;> rfl

/-- An accepted command is its operations and the end of their step (R84). -/
theorem exec_accepted {i : Instr} {s : State} (hbusy : s.busy = false) (hadmits : s.admits i = true) :
    exec i s = (firstEnd s i (firstState i s)).outcome (firstState i s) := by
  cases i with
  | init => rw [exec_init, issue_admitted _ _ hbusy hadmits]; rfl
  | set sig v => rw [exec_set, issue_admitted _ _ hbusy hadmits]; rfl
  | read => rw [exec_read, issue_admitted _ _ hbusy hadmits]; rfl
  | pulse => rw [exec_pulse, issue_admitted _ _ hbusy hadmits]; rfl
  | wait d =>
    rw [exec_wait, execWait, issue_admitted _ _ hbusy hadmits]
    simp only [firstEnd, firstState, firstOps, accept_cfg]
    cases s.cfg.strategy with
    | clockDriven => rfl
    | timerDriven => exact timerIteration_eq d (timerStartOps (accept (.wait d) s))
    | thresholdDriven =>
      simp only [waitThreshold]
      split_ifs
      · exact sleepPoll_sleepOps d (accept (.wait d) s)
      · rfl

theorem exec_busy (i : Instr) {s : State} (h : s.busy = true) : exec i s = .next s := by
  obtain ⟨run, hexec⟩ := exists_exec_eq_issue i s
  rw [hexec, issue_busy i run h]

/-- A command that ends in a next state has found the block busy, or has been accepted (R84, R179). -/
theorem eq_or_accepted_of_exec {i : Instr} {s t : State} (h : exec i s = .next t) :
    t = s ∨ s.busy = false ∧ s.admits i = true := by
  cases hbusy : s.busy with
  | true =>
    rw [exec_busy i hbusy] at h
    cases h
    exact .inl rfl
  | false =>
    cases hadmits : s.admits i with
    | true => exact .inr ⟨rfl, rfl⟩
    | false =>
      rw [exec_not_admitted hbusy hadmits] at h
      cases h

/-- A command going on is the operations of a further step and its end. -/
theorem continueCommand_eq (s : State) : continueCommand s = (laterEnd s (laterOps s s)).outcome (laterOps s s) := by
  unfold continueCommand laterEnd laterOps
  cases decode s.cur with
  | error e => rfl
  | ok i =>
    cases i with
    | init | set | read | pulse => rfl
    | wait d =>
      cases s.cfg.strategy with
      | clockDriven => rfl
      | timerDriven => exact timerIteration_eq d s
      | thresholdDriven =>
        dsimp only
        split_ifs
        · exact sleepPoll_eq s
        · rfl

end Sys2Proof.Machine
end

section
/-! O7 to O11: the step of an idle block (R81, R84). It runs the presented command, refuses an invalid word, and with no word
presented stands still. -/

namespace Sys2Proof.Machine

theorem State.inReset_iff (s : State) : s.inReset = true ↔ s.rst = some 0 := by
  simp [State.inReset]

theorem step_presented {s : State} {w : Word} {i : Instr} (hreset : s.inReset = false) (hbusy : s.busy = false)
    (hword : s.cmdWord = some w) (hdecode : decode w = .ok i) : step s = exec i s := by
  simp only [step, hreset, hbusy, Bool.false_eq_true, if_false, hword, hdecode]

theorem step_invalid {s : State} {w : Word} {e : DecodeError} (hreset : s.inReset = false) (hbusy : s.busy = false)
    (hword : s.cmdWord = some w) (hdecode : decode w = .error e) : step s = .refused (.invalidWord e) := by
  simp only [step, hreset, hbusy, Bool.false_eq_true, if_false, hword, hdecode]

theorem step_exhausted {s : State} (hreset : s.inReset = false) (hbusy : s.busy = false) (hword : s.cmdWord = none) :
    step s = .next s := by
  simp only [step, hreset, hbusy, Bool.false_eq_true, if_false, hword]

/-- A presented `encode i` runs `i`, in a block with no reset to come. -/
theorem step_encode {s : State} {i : Instr} (hbusy : s.busy = false) (hrst : s.rst = none)
    (hword : s.cmdWord = some (encode i)) : step s = exec i s :=
  step_presented (by simp [State.inReset, hrst]) hbusy hword (decode_encode i)

/-- Settles O7. -/
theorem stepRunsPresentedCommand : Obligations.StepRunsPresentedCommand :=
  fun _ _ _ => step_presented

/-- Settles O9. -/
theorem stepRefusesInvalidWord : Obligations.StepRefusesInvalidWord :=
  fun _ _ _ => step_invalid

/-- Settles O10, by induction on the number of steps: past the end of the list no word is presented. -/
theorem idleWhenListIsExhausted : Obligations.IdleWhenListIsExhausted := by
  intro s n hreset hbusy hend
  have hstep : step s = .next s := step_exhausted hreset hbusy (List.getElem?_eq_none hend)
  induction n with
  | zero => rfl
  | succ n ih => rw [steps_succ ih, hstep]

/-- Settles O11. -/
theorem busyBlockAcceptsNoCommand : Obligations.BusyBlockAcceptsNoCommand :=
  fun i _ => exec_busy i

theorem tableWord_toNat (w : Word) : tableWord 40 w.toNat = w := by
  rw [tableWord, Nat.mod_eq_of_lt w.isLt, BitVec.ofNat_toNat, BitVec.setWidth_eq]

/-- A list cut or filled up to `n` words, with a word after them, has that word as number `n`. -/
theorem getElem?_take_append_replicate (l r : List Word) (n : Nat) (w : Word) :
    (l.take n ++ List.replicate (n - l.length) 0 ++ w :: r)[n]? = some w := by
  have hlength : (l.take n ++ List.replicate (n - l.length) 0).length = n := by
    rw [List.length_append, List.length_take, List.length_replicate]
    omega
  rw [List.getElem?_append_right hlength.le, hlength, Nat.sub_self, List.getElem?_cons_zero]

/-- Settles O8. -/
theorem fetchWordIsPresented : Obligations.FetchWordIsPresented := by
  intro s w
  refine ⟨?_, rfl, rfl, rfl⟩
  rw [State.cmdWord, State.withFetchWord, tableWord_toNat]
  exact getElem?_take_append_replicate s.prog _ s.cp w

end Sys2Proof.Machine
end

section
/-! O58 to O60: the reset event during a step (R176). A step whose operations make `n` moves is abandoned by a reset within the
first `n` moves, and else what it is without a reset; so whatever a step does, it has been reset, or does without one. -/

namespace Sys2Proof.Machine

/-- `o` is what a reset makes of a step that began in `s`, `k` moves on (R175): a reset state, or a refusal of the straps. -/
def State.Abandoned (s : State) (k : Nat) (o : Host.Outcome State Fault Refusal) : Prop :=
  (∀ c, s.straps.sample = some c → ∃ t, o = .next t ∧ t = s.afterReset c k t) ∧
  (s.straps.sample = none → o = .refused .illFormedConfiguration)

/-- The reset event in a state that an abandoned command has led to, `k` moves on (R175). -/
theorem resetEvent_abandoned {s u : State} {k : Nat} (hstraps : u.straps = s.straps) (hprog : u.prog = s.prog)
    (henv : u.env = s.env.after k) : s.Abandoned k (resetEvent u) := by
  constructor
  · intro c hsample
    refine ⟨State.released s.straps c (s.env.after k) s.prog, ?_, rfl⟩
    simp only [resetEvent, hstraps, hsample, hprog, henv]
  · intro hsample
    simp only [resetEvent, hstraps, hsample]

/-- Operations that `rst` meets before or at their end are abandoned (R176). -/
theorem Cuts.abandoned {n k : Nat} {F : State → State} (hF : Cuts n F) (e : StepEnd) {s : State} (hrst : s.rst = some k)
    (hk : k ≤ n) : s.Abandoned k (e.outcome (F s)) := by
  obtain ⟨hcut, henv⟩ := hF.at_end hrst hk
  rw [StepEnd.outcome_in_reset e hcut]
  exact resetEvent_abandoned (hF.straps s) (hF.prog s) henv

/-- The end of a step that `rst` has yet to meet. -/
theorem StepEnd.outcome_withRst (e : StepEnd) {u : State} (hrst : u.rst = none) {k : Nat} (hk : 0 < k) :
    e.outcome (u.withRst (some k)) = onNext (fun t => t.withRst (some k)) (e.outcome u) := by
  have hnot : (u.withRst (some k)).inReset = false := by
    simpa [State.inReset, State.withRst] using Nat.ne_of_gt hk
  cases e with
  | complete r =>
    rw [StepEnd.outcome_complete, StepEnd.outcome_complete, finish_running r hrst, finish, hnot]
    rfl
  | goesOn =>
    rw [StepEnd.outcome_goesOn, StepEnd.outcome_goesOn, suspend_running hrst, suspend, hnot]
    rfl

theorem firstEnd_withRst (s : State) (i : Instr) (u : State) (r r' : Option Nat) :
    firstEnd (s.withRst r) i (u.withRst r') = firstEnd s i u := by
  cases i <;> rfl

/-- A reset that comes after the moves of a command's first step leaves that step as it is (R176). -/
theorem exec_before_later_reset {i : Instr} {s : State} {k : Nat} (hbusy : s.busy = false) (hadmits : s.admits i = true)
    (hrst : s.rst = some k) (hk : moveCount s i < k) :
    exec i s = onNext (fun t => t.withRst (some (k - moveCount s i))) (exec i (s.withRst none)) := by
  have hadmits' : (s.withRst none).admits i = true := by
    rw [← hadmits]
    cases i <;> rfl
  have hF := cuts_firstOps s i
  have hlate : firstState i s = (firstState i (s.withRst none)).withRst (some (k - moveCount s i)) :=
    hF.late (accept i s) k hrst hk.le
  have hrun : (firstState i (s.withRst none)).rst = none := (hF.run (accept i (s.withRst none)) rfl).1
  rw [exec_accepted hbusy hadmits, exec_accepted (s := s.withRst none) hbusy hadmits', hlate,
    ← StepEnd.outcome_withRst _ hrun (Nat.sub_pos_of_lt hk)]
  exact congrArg (fun e : StepEnd => e.outcome _) (firstEnd_withRst s i _ none _).symm

/-- A reset that comes after the moves of a further step leaves that step as it is (R176). -/
theorem step_before_later_reset {s : State} {k : Nat} (hbusy : s.busy = true) (hrst : s.rst = some k)
    (hk : laterMoveCount s < k) :
    step s = onNext (fun t => t.withRst (some (k - laterMoveCount s))) (step (s.withRst none)) := by
  have hnot : s.inReset = false := by simpa [State.inReset, hrst] using Nat.ne_zero_of_lt hk
  have hcontinue : step s = continueCommand s := by simp [step, hnot, hbusy]
  have hF := cuts_laterOps s
  have hlate : laterOps s s = (laterOps s (s.withRst none)).withRst (some (k - laterMoveCount s)) :=
    hF.late s k hrst hk.le
  have hrun : (laterOps s (s.withRst none)).rst = none := (hF.run (s.withRst none) rfl).1
  rw [hcontinue, step_busy (s := s.withRst none) hbusy rfl, continueCommand_eq, continueCommand_eq, hlate]
  exact StepEnd.outcome_withRst _ hrun (Nat.sub_pos_of_lt hk)

/-- An asserted reset abandons a step before its first move (R175, R176). -/
theorem step_in_reset_abandoned {s : State} (hrst : s.rst = some 0) : s.Abandoned 0 (step s) := by
  rw [step_in_reset hrst]
  exact resetEvent_abandoned rfl rfl rfl

/-- Settles O58. -/
theorem assertedResetComesFirst : Obligations.AssertedResetComesFirst := fun _ => step_in_reset_abandoned

/-- A further step that `rst` meets within its moves is abandoned (R176). -/
theorem step_abandoned {s : State} {k : Nat} (hbusy : s.busy = true) (hrst : s.rst = some k) (hk : k ≤ laterMoveCount s) :
    s.Abandoned k (step s) := by
  obtain rfl | hk0 := Nat.eq_zero_or_pos k
  · exact step_in_reset_abandoned hrst
  · have hcontinue : step s = continueCommand s := by simp [step, State.inReset, hrst, hbusy, Nat.ne_of_gt hk0]
    rw [hcontinue, continueCommand_eq]
    exact (cuts_laterOps s).abandoned _ hrst hk

/-- A command's first step that `rst` meets within its moves is abandoned (R176). -/
theorem exec_abandoned {i : Instr} {s : State} {k : Nat} (hbusy : s.busy = false) (hadmits : s.admits i = true)
    (hrst : s.rst = some k) (hk : k ≤ moveCount s i) : s.Abandoned k (exec i s) := by
  rw [exec_accepted hbusy hadmits]
  exact (cuts_firstOps s i).abandoned _ (s := accept i s) hrst hk

/-- Settles O59: the operations of either step are cut short by `rst`. -/
theorem resetAbandonsTheCommand : Obligations.ResetAbandonsTheCommand :=
  ⟨fun _ _ _ => exec_abandoned, fun _ _ => step_abandoned⟩

/-- Settles O60: the operations of either step are over before `rst` comes. -/
theorem laterResetLeavesTheCommand : Obligations.LaterResetLeavesTheCommand :=
  ⟨fun _ _ _ => exec_before_later_reset, fun _ _ => step_before_later_reset⟩

/-- The next state an abandoned step leads to. -/
theorem State.Abandoned.eq_afterReset {s t : State} {k : Nat} {o : Host.Outcome State Fault Refusal} (h : s.Abandoned k o)
    (ho : o = .next t) : ∃ c k, s.straps.sample = some c ∧ t = s.afterReset c k t := by
  obtain ⟨hsampled, hrefused⟩ := h
  cases hsample : s.straps.sample with
  | none =>
    rw [hrefused hsample] at ho
    cases ho
  | some c =>
    obtain ⟨t', ho', hreset⟩ := hsampled c hsample
    rw [ho'] at ho
    cases ho
    exact ⟨c, k, rfl, hreset⟩

theorem exists_of_onNext {f : State → State} {o : Host.Outcome State Fault Refusal} {t : State} (h : onNext f o = .next t) :
    ∃ u, o = .next u ∧ t = f u := by
  cases o with
  | next u =>
    cases h
    exact ⟨u, rfl, rfl⟩
  | fault r => cases h
  | refused r => cases h

/-- A command's first step leads to a reset state, or where it leads without a reset, but for the countdown (R176). -/
theorem reset_or_running_of_exec {i : Instr} {s t : State} (hbusy : s.busy = false) (h : exec i s = .next t) :
    (∃ c k, s.straps.sample = some c ∧ t = s.afterReset c k t) ∨
    (∃ u r, exec i (s.withRst none) = .next u ∧ t = u.withRst r) := by
  cases hadmits : s.admits i with
  | false =>
    rw [exec_not_admitted hbusy hadmits] at h
    cases h
  | true =>
    cases hrst : s.rst with
    | none => exact .inr ⟨t, t.rst, by rwa [State.withRst_self hrst], rfl⟩
    | some k =>
      obtain hk | hk := Nat.lt_or_ge (moveCount s i) k
      · rw [exec_before_later_reset hbusy hadmits hrst hk] at h
        obtain ⟨u, hu, ht⟩ := exists_of_onNext h
        exact .inr ⟨u, _, hu, ht⟩
      · exact .inl ((exec_abandoned hbusy hadmits hrst hk).eq_afterReset h)

/-- A step leads to a reset state, or where it leads without a reset, but for the countdown (R176). -/
theorem reset_or_running_of_step {s t : State} (h : step s = .next t) :
    (∃ c k, s.straps.sample = some c ∧ t = s.afterReset c k t) ∨
    (∃ u r, step (s.withRst none) = .next u ∧ t = u.withRst r) := by
  cases hreset : s.inReset with
  | true => exact .inl ((step_in_reset_abandoned (s.inReset_iff.mp hreset)).eq_afterReset h)
  | false =>
    cases hbusy : s.busy with
    | true =>
      cases hrst : s.rst with
      | none => exact .inr ⟨t, t.rst, by rwa [State.withRst_self hrst], rfl⟩
      | some k =>
        obtain hk | hk := Nat.lt_or_ge (laterMoveCount s) k
        · rw [step_before_later_reset hbusy hrst hk] at h
          obtain ⟨u, hu, ht⟩ := exists_of_onNext h
          exact .inr ⟨u, _, hu, ht⟩
        · exact .inl ((step_abandoned hbusy hrst hk).eq_afterReset h)
    | false =>
      cases hword : s.cmdWord with
      | none =>
        rw [step_exhausted hreset hbusy hword] at h
        cases h
        exact .inr ⟨s.withRst none, s.rst, step_exhausted rfl hbusy hword, rfl⟩
      | some w =>
        cases hdecode : decode w with
        | error e =>
          rw [step_invalid hreset hbusy hword hdecode] at h
          cases h
        | ok i =>
          rw [step_presented hreset hbusy hword hdecode] at h
          rw [step_presented (s := s.withRst none) rfl hbusy hword hdecode]
          exact reset_or_running_of_exec hbusy h

end Sys2Proof.Machine
end

section
/-! What every step keeps. A predicate on the pins, the trace and the environment that each kind of operation keeps is kept by
every step without a reset, and by every step if a reset state has it too; so each invariant is one fact for each kind. -/

namespace Sys2Proof.Machine

/-! ### The operations while no reset comes -/

/-- The events of `SetSignal` on a driven line (R93, R94). -/
def setEvents (o : OutSignal) (v : Level) : List Event :=
  if o = .tck then [.write o v, .settle] else [.write o v]

/-- The events of INIT's calls in order number `n` (R90, R91). -/
def cfgEvents (n : Nat) : List Event := (signalOrder n).map fun sig => .cfg sig (initMode sig)

theorem cfgEvents_perm (n : Nat) :
    (cfgEvents n).Perm [.cfg .tck .out, .cfg .tms .out, .cfg .tdi .out, .cfg .tdo .inPullup] :=
  (signalOrder_perm n).map _

/-- A signal code names a driven line, or drives none (R50). -/
theorem exists_codeOf_or_three_le (sig : BitVec 8) : (∃ o, sig = codeOf o) ∨ 3 ≤ sig.toNat := by
  have hcodes : sig = 0 ∨ sig = 1 ∨ sig = 2 ∨ 3 ≤ sig.toNat := by bv_omega
  obtain rfl | rfl | rfl | hundriven := hcodes
  · exact .inl ⟨.tck, rfl⟩
  · exact .inl ⟨.tms, rfl⟩
  · exact .inl ⟨.tdi, rfl⟩
  · exact .inr hundriven

/-- `SetSignal` on a driven line (R93, R94). -/
theorem setSignal_codeOf_running (o : OutSignal) (v : Level) {s : State} (h : s.rst = none) :
    setSignal (codeOf o) v s = { s.logged (setEvents o v) with
      env := s.env.after (if o = .tck then 2 else 1), lvl := s.lvl.set o v } := by
  cases o with
  | tck => exact setSignal_tck v h
  | tms => exact setSignal_tms v h
  | tdi => exact setSignal_tdi v h

theorem microOp_id_running {s : State} (h : s.rst = none) : microOp id s = { s with env := s.env.after 1 } :=
  microOp_running id h

theorem timerStartOps_running {s : State} (h : s.rst = none) : timerStartOps s =
    { s.logged [.now (s.env.after 1).now] with env := s.env.after 1, t0 := (s.env.after 1).now } := by
  rw [timerStartOps, readClock_running h]
  rfl

theorem timerLoopOps_running {s : State} (h : s.rst = none) : timerLoopOps s =
    { (s.pulsed 1).logged [.now (s.env.after 5).now] with env := s.env.after 5 } := by
  rw [timerLoopOps, pulseClock_running h, readClock_running (by exact h)]
  simp only [Env.move_after]
  rfl

theorem sleepOps_running (d : BitVec 32) {s : State} (h : s.rst = none) : sleepOps d s =
    { s.logged [.write .tck 0, .settle, .sleep (sleepMs d).toNat] with
      env := s.env.after 3, lvl := s.lvl.set .tck 0 } := by
  rw [sleepOps, setSignal_tck 0 h, sleepCall_running _ (by exact h)]
  simp only [Env.move_after, List.append_assoc, List.cons_append, List.nil_append]
  rfl

/-! ### Predicates the operations keep -/

/-- `s` with its pins, trace and environment, and `r`'s registers, handshake and host. -/
def State.withRegisters (s r : State) : State :=
  { r with cfg := s.cfg, mode := s.mode, lvl := s.lvl, tr := s.tr, pulseAt := s.pulseAt, env := s.env }

/-- `P` speaks of pins, trace and environment only, and every kind of operation keeps it. -/
structure KeptByOps (P : State → Prop) : Prop where
  registers : ∀ s r, P s → P (s.withRegisters r)
  moves : ∀ s n, P s → P { s with env := s.env.after n }
  configure : ∀ s n, P s → P { s.logged (cfgEvents n) with mode := .configured }
  write : ∀ s o v, P s → P { s.logged (setEvents o v) with lvl := s.lvl.set o v }
  sample : ∀ s b, P s → P (s.logged [.sample b])
  reading : ∀ s, P s → P (s.logged [.now s.env.now])
  sleep : ∀ s ms, P s → P (s.logged [.sleep ms])
  pulses : ∀ s n, P s → P (s.pulsed n)

namespace KeptByOps

variable {P : State → Prop} (h : KeptByOps P)
include h

theorem of_setSignal {s : State} (hrst : s.rst = none) (hP : P s) (sig : BitVec 8) (v : Level) : P (setSignal sig v s) := by
  obtain ⟨o, rfl⟩ | hundriven := exists_codeOf_or_three_le sig
  · rw [setSignal_codeOf_running o v hrst]
    exact h.write _ o v (h.moves s _ hP)
  · rwa [setSignal_no_effect hundriven]

theorem of_countedPulses {s : State} (hrst : s.rst = none) (hP : P s) (n : BitVec 48) : P (countedPulses n s) := by
  rw [countedPulses_running n hrst]
  exact h.registers _ { s with cyc := n, acc := n, sub := (s.pulsed n.toNat).sub } (h.moves _ _ (h.pulses s n.toNat hP))

theorem of_timerStartOps {s : State} (hrst : s.rst = none) (hP : P s) : P (timerStartOps s) := by
  rw [timerStartOps_running hrst]
  exact h.registers _ { s with t0 := (s.env.after 1).now } (h.reading _ (h.moves s 1 hP))

theorem of_timerLoopOps {s : State} (hrst : s.rst = none) (hP : P s) : P (timerLoopOps s) := by
  rw [timerLoopOps_running hrst]
  exact h.reading _ (h.moves _ 5 (h.pulses s 1 hP))

theorem of_microOp_id {s : State} (hrst : s.rst = none) (hP : P s) : P (microOp id s) := by
  rw [microOp_id_running hrst]
  exact h.moves s 1 hP

theorem of_sleepOps {s : State} (hrst : s.rst = none) (hP : P s) (d : BitVec 32) : P (sleepOps d s) := by
  have hset : P (setSignal 0 0 s) := h.of_setSignal hrst hP 0 0
  have hrst' : (setSignal 0 0 s).rst = none := (setSignal_rst_mode 0 0 hrst).1
  rw [sleepOps, sleepCall_running _ hrst']
  exact h.sleep _ _ (h.moves _ 1 hset)

theorem of_firstOps {s : State} (hrst : s.rst = none) (hP : P s) (s₀ : State) (i : Instr) : P (firstOps s₀ i s) := by
  cases i with
  | init =>
    rw [firstOps_init, configureAll_running _ hrst]
    exact h.configure _ _ (h.moves s 4 hP)
  | set sig v => exact h.of_setSignal hrst hP sig v
  | read =>
    rw [firstOps_read, padSample_running hrst]
    exact h.sample _ _ (h.moves s 1 hP)
  | pulse =>
    rw [firstOps_pulse, pulseClock_running hrst]
    exact h.moves _ 4 (h.pulses s 1 hP)
  | wait d =>
    cases hstrategy : s₀.cfg.strategy with
    | clockDriven =>
      rw [firstOps_wait_clockDriven hstrategy]
      exact h.of_countedPulses hrst hP _
    | timerDriven =>
      rw [firstOps_wait_timerDriven hstrategy]
      exact h.of_timerLoopOps (cuts_timerStart.run s hrst).1 (h.of_timerStartOps hrst hP)
    | thresholdDriven =>
      by_cases hd : isLongWait d = true
      · rw [firstOps_wait_long hstrategy hd]
        exact h.of_microOp_id ((cuts_sleepOps d).run s hrst).1 (h.of_sleepOps hrst hP d)
      · rw [firstOps_wait_short hstrategy hd]
        exact h.of_countedPulses hrst hP _

theorem of_laterOps {s : State} (hrst : s.rst = none) (hP : P s) (s₀ : State) : P (laterOps s₀ s) := by
  obtain hops | hops | hops := laterOps_cases s₀
  · rw [hops]
    exact h.of_timerLoopOps hrst hP
  · rw [hops]
    exact h.of_microOp_id hrst hP
  · rwa [hops]

theorem of_outcome {u t : State} {e : StepEnd} (hrst : u.rst = none) (hP : P u) (ht : e.outcome u = .next t) : P t := by
  obtain ⟨busy, done, rdata, cp, hend⟩ := e.outcome_running hrst
  rw [hend] at ht
  cases ht
  exact h.registers u { u with busy := busy, done := done, rdata := rdata, cp := cp } hP

theorem of_exec {s t : State} {i : Instr} (hrst : s.rst = none) (hP : P s) (ht : exec i s = .next t) : P t := by
  obtain rfl | ⟨hbusy, hadmits⟩ := eq_or_accepted_of_exec ht
  · exact hP
  · rw [exec_accepted hbusy hadmits] at ht
    have hfirst : P (firstState i s) := h.of_firstOps (s := accept i s) hrst (h.registers s (accept i s) hP) s i
    exact h.of_outcome ((cuts_firstOps s i).run (accept i s) hrst).1 hfirst ht

/-- A step without a reset keeps what the operations keep. -/
theorem of_step_running {s t : State} (hrst : s.rst = none) (hP : P s) (ht : step s = .next t) : P t := by
  cases hbusy : s.busy with
  | true =>
    rw [step_busy hbusy hrst, continueCommand_eq] at ht
    exact h.of_outcome ((cuts_laterOps s).run s hrst).1 (h.of_laterOps hrst hP s) ht
  | false =>
    obtain rfl | ⟨i, hexec⟩ := eq_or_exec_of_step_idle ht hbusy hrst
    · exact hP
    · exact h.of_exec hrst hP hexec

/-- Every step keeps what the operations keep and a reset state has. -/
theorem of_step {s t : State} (hreset : ∀ c k r, s.straps.sample = some c → P (s.afterReset c k r)) (hP : P s)
    (ht : step s = .next t) : P t := by
  obtain ⟨c, k, hsample, hafter⟩ | ⟨u, r, hu, rfl⟩ := reset_or_running_of_step ht
  · rw [hafter]
    exact hreset c k t hsample
  · have hP' : P (s.withRst none) := h.registers s (s.withRst none) hP
    exact h.registers u (u.withRst r) (h.of_step_running rfl hP' hu)

end KeptByOps

end Sys2Proof.Machine
end

section
/-! O46 to O52 and O54 to O57: the invariants, and what a step leaves as it was. Each is a predicate that the kinds of
operation keep; a reset state has an empty trace, no latch written, and what the straps sample to. -/

namespace Sys2Proof.Machine

/-! ### The straps -/

/-- A strategy has one code (R22). -/
theorem ofCode_eq_some_iff (c : BitVec 2) (st : Strategy) : Strategy.ofCode c = some st ↔ st.code = c := by
  revert c
  cases st <;> decide

theorem ofCode_eq_none_iff (c : BitVec 2) : Strategy.ofCode c = none ↔ c = 0 := by
  revert c
  decide

theorem sample_of_ofCode_eq_none {p : StrapPins} (h : Strategy.ofCode p.strategy = none) : p.sample = none := by
  simp only [StrapPins.sample, h]

theorem sample_of_ofCode_eq_some {p : StrapPins} {st : Strategy} (h : Strategy.ofCode p.strategy = some st) : p.sample =
    if p.cpm ≠ 0 ∧ p.bind.Injective then some { cpm := p.cpm, strategy := st, bind := p.bind } else none := by
  simp only [StrapPins.sample, h]

/-- Straps give no configuration exactly where they are ill formed (R21 to R23). -/
theorem sample_eq_none_iff (p : StrapPins) : p.sample = none ↔ p.cpm = 0 ∨ p.strategy = 0 ∨ ¬ p.bind.Injective := by
  cases hcode : Strategy.ofCode p.strategy with
  | none =>
    have hzero := (ofCode_eq_none_iff _).mp hcode
    exact iff_of_true (sample_of_ofCode_eq_none hcode) (.inr (.inl hzero))
  | some st =>
    have hlegal : ¬ p.strategy = 0 := by
      intro hzero
      rw [(ofCode_eq_none_iff _).mpr hzero] at hcode
      cases hcode
    have hformed : ¬ (p.cpm ≠ 0 ∧ p.bind.Injective) ↔ p.cpm = 0 ∨ ¬ p.bind.Injective :=
      not_and_or.trans (or_congr_left not_ne_iff)
    rw [sample_of_ofCode_eq_some hcode, or_iff_right hlegal, ← hformed]
    by_cases h : p.cpm ≠ 0 ∧ p.bind.Injective
    · rw [if_pos h]
      exact iff_of_false (Option.some_ne_none _) (not_not_intro h)
    · rw [if_neg h]
      exact iff_of_true rfl h

/-- A configuration that straps sample to holds their values, with the strategy's code, and is legal (R21 to R24). -/
theorem values_of_sample {p : StrapPins} {c : Cfg} (h : p.sample = some c) :
    c.cpm = p.cpm ∧ c.strategy.code = p.strategy ∧ c.bind = p.bind ∧ c.WellFormed := by
  cases hcode : Strategy.ofCode p.strategy with
  | none =>
    rw [sample_of_ofCode_eq_none hcode] at h
    cases h
  | some st =>
    rw [sample_of_ofCode_eq_some hcode] at h
    split_ifs at h with hformed
    cases h
    exact ⟨rfl, (ofCode_eq_some_iff _ _).mp hcode, rfl, hformed⟩

/-- Settles O57. -/
theorem samplingTheStraps : Obligations.SamplingTheStraps :=
  fun p => ⟨sample_eq_none_iff p, fun _ => values_of_sample⟩

/-! ### The configuration, the trace and the clock -/

theorem keptByOps_cfg (c : Cfg) : KeptByOps fun u => u.cfg = c where
  registers _ _ h := h
  moves _ _ h := h
  configure _ _ h := h
  write _ _ _ h := h
  sample _ _ h := h
  reading _ h := h
  sleep _ _ h := h
  pulses _ _ h := h

theorem cfg_of_step {s t : State} (hrst : s.rst = none) (h : step s = .next t) : t.cfg = s.cfg :=
  (keptByOps_cfg s.cfg).of_step_running hrst rfl h

/-- Settles O46: without a reset no operation writes the configuration, and a reset samples it. -/
theorem configurationIsConstant : Obligations.ConfigurationIsConstant := by
  intro s t h
  refine ⟨fun hrst => cfg_of_step hrst h, ?_⟩
  obtain ⟨c, k, hsample, hafter⟩ | ⟨u, r, hu, rfl⟩ := reset_or_running_of_step h
  · rw [hafter]
    exact .inr hsample
  · exact .inl (cfg_of_step (s := s.withRst none) (t := u) rfl hu)

theorem keptByOps_prefix (T : List Event) : KeptByOps fun u => T <+: u.tr where
  registers _ _ h := h
  moves _ _ h := h
  configure _ _ h := h.trans (List.prefix_append _ _)
  write _ _ _ h := h.trans (List.prefix_append _ _)
  sample _ _ h := h.trans (List.prefix_append _ _)
  reading _ h := h.trans (List.prefix_append _ _)
  sleep _ _ h := h.trans (List.prefix_append _ _)
  pulses _ _ h := h.trans (List.prefix_append _ _)

/-- Settles O47: every operation appends. -/
theorem traceOnlyGrows : Obligations.TraceOnlyGrows :=
  fun s _ hrst => (keptByOps_prefix s.tr).of_step_running hrst List.prefix_rfl

theorem keptByOps_clock (now : Nat) : KeptByOps fun u => now ≤ u.env.now where
  registers _ _ h := h
  moves s n h := h.trans (Env.now_le_after s.env n)
  configure _ _ h := h
  write _ _ _ h := h
  sample _ _ h := h
  reading _ h := h
  sleep _ _ h := h
  pulses _ _ h := h

/-- Settles O48: only the environment's moves change the clock, and a reset makes none back. -/
theorem clockNeverDecreases : Obligations.ClockNeverDecreases :=
  fun s _ => (keptByOps_clock s.env.now).of_step (fun _ k _ _ => Env.now_le_after s.env k) le_rfl

/-! ### Legal configurations -/

theorem keptByOps_legalConfiguration : KeptByOps State.LegalConfiguration where
  registers _ _ h := h
  moves _ _ h := h
  configure _ _ h := ⟨h.1, .inr rfl⟩
  write _ _ _ h := h
  sample _ _ h := h
  reading _ h := h
  sleep _ _ h := h
  pulses _ _ h := h

theorem afterReset_legalConfiguration {s : State} {c : Cfg} (k : Nat) (r : State) (h : s.straps.sample = some c) :
    (s.afterReset c k r).LegalConfiguration := by
  obtain ⟨_, _, _, hformed⟩ := values_of_sample h
  exact ⟨hformed, .inl rfl⟩

/-- Settles O49: INIT writes legal modes, a reset releases the pins and samples legal values, and nothing else writes either. -/
theorem stepKeepsLegalConfiguration : Obligations.StepKeepsLegalConfiguration :=
  fun _ _ => keptByOps_legalConfiguration.of_step fun _ => afterReset_legalConfiguration

/-! ### Latches -/

theorem lastWrite_cfgEvents (n : Nat) (o : OutSignal) : lastWrite (cfgEvents n) o = none := by
  simp [lastWrite, writes, cfgEvents, List.filterMap_map, Function.comp_def, writeOf]

theorem lastWrite_setEvents (o o' : OutSignal) (v : Level) :
    lastWrite (setEvents o v) o' = if o' = o then some v else none := by
  cases o <;> cases o' <;> rfl

theorem Latches.get_set (l : Latches) (o o' : OutSignal) (v : Level) :
    (l.set o v).get o' = if o' = o then some v else l.get o' := by
  split_ifs with h
  · rw [h, Latches.get_set_same]
  · exact Latches.get_set_other l v h

/-- Events that write no line leave the latches as last written. -/
theorem State.LatchesMatchTrace.logged {s : State} (h : s.LatchesMatchTrace) {U : List Event}
    (hU : ∀ o, lastWrite U o = none) : (s.logged U).LatchesMatchTrace := by
  intro o
  rw [State.logged_tr, lastWrite_append, hU, Option.none_or]
  exact h o

theorem State.LatchesMatchTrace.pulsed {s : State} (h : s.LatchesMatchTrace) (n : Nat) : (s.pulsed n).LatchesMatchTrace := by
  intro o
  rw [State.pulsed_tr, State.pulsed_lvl, lastWrite_append, lastWrite_pulseTrain, ← h o]
  by_cases hn : n = 0
  · simp [hn]
  · rw [if_neg hn, Latches.get_set]
    by_cases ho : o = .tck <;> simp [hn, ho]

theorem keptByOps_latchesMatchTrace : KeptByOps State.LatchesMatchTrace where
  registers _ _ h := h
  moves _ _ h := h
  configure _ n h := h.logged (lastWrite_cfgEvents n)
  write s o v h o' := by
    rw [State.logged_tr, lastWrite_append, lastWrite_setEvents, Latches.get_set, h o']
    split_ifs <;> rfl
  sample _ _ h := h.logged fun _ => rfl
  reading _ h := h.logged fun _ => rfl
  sleep _ _ h := h.logged fun _ => rfl
  pulses _ n h := h.pulsed n

theorem afterReset_latchesMatchTrace (s : State) (c : Cfg) (k : Nat) (r : State) :
    (s.afterReset c k r).LatchesMatchTrace := by
  intro o
  cases o <;> rfl

/-- Settles O50: an operation writes a latch and logs the write, or does neither. -/
theorem stepKeepsLatchesAsLastWritten : Obligations.StepKeepsLatchesAsLastWritten :=
  fun s _ => keptByOps_latchesMatchTrace.of_step fun c k r _ => afterReset_latchesMatchTrace s c k r

/-! ### Settle delays -/

/-- Events with their settle delays, after events with theirs. -/
theorem State.Settled.append {s t : State} (h : s.Settled) {U : List Event} (htr : t.tr = s.tr ++ U)
    (hU : settleDiscipline false U = true) : t.Settled := by
  rw [State.Settled, htr, settleDiscipline_append _ _ _ h]
  exact hU

theorem settleDiscipline_cfgEvents (n : Nat) : settleDiscipline false (cfgEvents n) = true := by
  have hlist : ∀ l : List Signal, settleDiscipline false (l.map fun sig => .cfg sig (initMode sig)) = true := by
    intro l
    induction l with
    | nil => rfl
    | cons sig l ih => exact ih
  exact hlist _

theorem settleDiscipline_setEvents (o : OutSignal) (v : Level) : settleDiscipline false (setEvents o v) = true := by
  cases o <;> rfl

theorem keptByOps_settled : KeptByOps State.Settled where
  registers _ _ h := h
  moves _ _ h := h
  configure _ n h := h.append rfl (settleDiscipline_cfgEvents n)
  write _ o v h := h.append rfl (settleDiscipline_setEvents o v)
  sample _ _ h := h.append rfl rfl
  reading _ h := h.append rfl rfl
  sleep _ _ h := h.append rfl rfl
  pulses _ n h := h.append rfl (settleDiscipline_pulseTrain n)

/-- Settles O51: each kind of operation appends events with their settle delays. -/
theorem stepKeepsTckWritesSettled : Obligations.StepKeepsTckWritesSettled :=
  fun _ _ => keptByOps_settled.of_step fun _ _ _ _ => rfl

/-! ### Clock readings -/

/-- Events without a reading. -/
theorem State.ClockOrdered.append {s t : State} (h : s.ClockOrdered) {U : List Event} (htr : t.tr = s.tr ++ U)
    (hnow : s.env.now ≤ t.env.now) (hU : clockReadings U = []) : t.ClockOrdered := by
  obtain ⟨hordered, hbound⟩ := h
  rw [State.ClockOrdered, htr, clockReadings_append, hU, List.append_nil]
  exact ⟨hordered, fun r hr => (hbound r hr).trans hnow⟩

/-- A reading of the clock comes after all earlier ones and is the clock. -/
theorem State.ClockOrdered.reading {s : State} (h : s.ClockOrdered) : (s.logged [.now s.env.now]).ClockOrdered := by
  obtain ⟨hordered, hbound⟩ := h
  have hreadings : clockReadings (s.logged [.now s.env.now]).tr = clockReadings s.tr ++ [s.env.now] :=
    clockReadings_append s.tr [.now s.env.now]
  rw [State.ClockOrdered, hreadings]
  constructor
  · rw [List.pairwise_append]
    refine ⟨hordered, List.pairwise_singleton _ _, fun r hr r' hr' => ?_⟩
    rw [List.mem_singleton.mp hr']
    exact hbound r hr
  · intro r hr
    obtain hr | hr := List.mem_append.mp hr
    · exact hbound r hr
    · exact (List.mem_singleton.mp hr).le

theorem clockReadings_cfgEvents (n : Nat) : clockReadings (cfgEvents n) = [] := by
  simp [clockReadings, cfgEvents, List.filterMap_map]

theorem clockReadings_setEvents (o : OutSignal) (v : Level) : clockReadings (setEvents o v) = [] := by
  cases o <;> rfl

theorem keptByOps_clockOrdered : KeptByOps State.ClockOrdered where
  registers _ _ h := h
  moves s n h := h.append (List.append_nil _).symm (Env.now_le_after s.env n) rfl
  configure _ n h := h.append rfl le_rfl (clockReadings_cfgEvents n)
  write _ o v h := h.append rfl le_rfl (clockReadings_setEvents o v)
  sample _ _ h := h.append rfl le_rfl rfl
  reading _ h := h.reading
  sleep _ _ h := h.append rfl le_rfl rfl
  pulses _ n h := h.append rfl le_rfl (clockReadings_pulseTrain n)

theorem afterReset_clockOrdered (s : State) (c : Cfg) (k : Nat) (r : State) : (s.afterReset c k r).ClockOrdered :=
  ⟨List.Pairwise.nil, fun _ hr => nomatch hr⟩

/-- Settles O52: a reading is of the clock at that instant, and the clock never goes back. -/
theorem stepKeepsClockReadingsOrdered : Obligations.StepKeepsClockReadingsOrdered :=
  fun s _ => keptByOps_clockOrdered.of_step fun c k r _ => afterReset_clockOrdered s c k r

/-! ### Recorded pulses -/

/-- Events without a recorded execution. -/
theorem State.PulsesRecorded.append {s t : State} (h : s.PulsesRecorded) {U : List Event} (htr : t.tr = s.tr ++ U)
    (hmarks : t.pulseAt = s.pulseAt) : t.PulsesRecorded := by
  obtain ⟨happart, hevents⟩ := h
  rw [State.PulsesRecorded, htr, hmarks]
  refine ⟨happart, fun p hp => ?_⟩
  rw [traceSegment_append U (traceSegment_pulse_fits (hevents p hp))]
  exact hevents p hp

/-- One more execution, whose events come after all that stood in the trace. -/
theorem State.PulsesRecorded.pulsed_one {s : State} (h : s.PulsesRecorded) : (s.pulsed 1).PulsesRecorded := by
  have hold : (s.logged pulseEvents).PulsesRecorded := h.append rfl rfl
  obtain ⟨happart, hevents⟩ := hold
  have hnew : traceSegment (s.tr ++ pulseEvents) s.tr.length (s.tr.length + 4) = pulseEvents := by
    simp [traceSegment, pulseEvents]
  constructor
  · refine List.pairwise_append.mpr ⟨happart, List.pairwise_singleton _ _, fun p hp q hq => ?_⟩
    rw [List.mem_singleton.mp hq]
    exact traceSegment_pulse_fits (h.2 p hp)
  · intro p hp
    obtain hp | hp := List.mem_append.mp hp
    · exact hevents p hp
    · rw [List.mem_singleton.mp hp]
      exact hnew

theorem State.PulsesRecorded.pulsed {s : State} (h : s.PulsesRecorded) (n : Nat) : (s.pulsed n).PulsesRecorded := by
  induction n with
  | zero => exact h.append rfl (List.append_nil _)
  | succ n ih =>
    rw [← State.pulsed_pulsed]
    exact ih.pulsed_one

theorem keptByOps_pulsesRecorded : KeptByOps State.PulsesRecorded where
  registers _ _ h := h
  moves _ _ h := h
  configure _ _ h := h.append rfl rfl
  write _ _ _ h := h.append rfl rfl
  sample _ _ h := h.append rfl rfl
  reading _ h := h.append rfl rfl
  sleep _ _ h := h.append rfl rfl
  pulses _ n h := h.pulsed n

theorem afterReset_pulsesRecorded (s : State) (c : Cfg) (k : Nat) (r : State) : (s.afterReset c k r).PulsesRecorded :=
  ⟨List.Pairwise.nil, fun _ hp => nomatch hp⟩

/-- Settles O54: a pulse records where its four events begin, and every other operation only appends. -/
theorem stepKeepsPulsesRecorded : Obligations.StepKeepsPulsesRecorded :=
  fun s _ => keptByOps_pulsesRecorded.of_step fun c k r _ => afterReset_pulsesRecorded s c k r

/-! ### The reset state -/

theorem straps_wellFormed : Config.straps.WellFormed := by
  unfold Config.straps
  split_ifs with h
  · exact h
  · decide

/-- The reset state's configuration is what its straps sample to (R175). -/
theorem straps_sample : Config.straps.sample = some Config.cfg := by
  obtain ⟨hcpm, hstrategy, hbind⟩ := straps_wellFormed
  obtain ⟨st, hcode⟩ : ∃ st, Strategy.ofCode Config.straps.strategy = some st :=
    Option.ne_none_iff_exists'.mp fun h => hstrategy ((ofCode_eq_none_iff _).mp h)
  rw [sample_of_ofCode_eq_some hcode, if_pos ⟨hcpm, hbind⟩, Config.cfg, hcode]
  rfl

/-- Settles O55: the reset state is one that a reset event leaves. -/
theorem resetMeetsTheInvariants : Obligations.ResetMeetsTheInvariants := by
  refine ⟨afterReset_legalConfiguration (s := State.reset) 0 State.reset straps_sample,
    afterReset_latchesMatchTrace State.reset Config.cfg 0 State.reset, rfl,
    afterReset_clockOrdered State.reset Config.cfg 0 State.reset,
    afterReset_pulsesRecorded State.reset Config.cfg 0 State.reset, ?_⟩
  intro hbusy
  cases hbusy

theorem probePad_reset (p : Pad) (probe : Nat) : probePad State.reset p probe = .undriven := by
  unfold probePad
  split_ifs <;> rfl

/-- Settles O56. -/
theorem resetLeavesTheBlockIdle : Obligations.ResetLeavesTheBlockIdle := by
  refine ⟨fun sig => ?modes, fun o => ?latches, rfl, rfl, straps_wellFormed, straps_sample, probePad_reset,
    fun i hi => ?refused⟩
  case modes => cases sig <;> rfl
  case latches => cases o <;> rfl
  case refused => exact exec_not_admitted rfl (State.admits_eq_allConfigured hi State.reset)

end Sys2Proof.Machine
end

section
/-! O29 to O33: WAIT under strategy 2 (R126 to R128). The state after `n + 1` iterations none of which has ended the WAIT is
written out as `timerState`; one more iteration leads to the next such state, and every run is an induction on that. -/

namespace Sys2Proof.Machine

/-! ### An iteration -/

theorem timerEnd_elapsed {d : BitVec 32} {u : State} (h : d.toNat ≤ u.env.now - u.t0) : timerEnd d u = .complete none :=
  if_pos (decide_eq_true h)

theorem timerEnd_short {d : BitVec 32} {u : State} (h : u.env.now - u.t0 < d.toNat) : timerEnd d u = .goesOn :=
  if_neg fun he => absurd (of_decide_eq_true he) (Nat.not_le_of_lt h)

/-- An iteration by its events (R126). -/
theorem timerLoopOps_events {s : State} (h : s.rst = none) : timerLoopOps s =
    { s.logged (pulseEvents ++ [.now (s.env.after 5).now]) with
      env := s.env.after 5, lvl := s.lvl.set .tck 1, sub := 3, pulseAt := s.pulseAt ++ [s.tr.length] } := by
  rw [timerLoopOps_running h]
  simp [State.pulsed, State.logged, pulseTrain, pulseStarts]

/-- A further step of a strategy-2 WAIT is one iteration (R126). -/
theorem step_timerWait {s : State} {d : BitVec 32} (hbusy : s.busy = true) (hrst : s.rst = none)
    (hcur : s.cur = encode (.wait d)) (hstrategy : s.cfg.strategy = .timerDriven) :
    step s = (timerEnd d (timerLoopOps s)).outcome (timerLoopOps s) := by
  have hops : laterOps s = timerLoopOps := by simp only [laterOps, hcur, decode_encode, hstrategy]
  have hend : laterEnd s (timerLoopOps s) = timerEnd d (timerLoopOps s) := by
    simp only [laterEnd, hcur, decode_encode, hstrategy]
  rw [step_busy hbusy hrst, continueCommand_eq, hops, hend]

/-- Settles O30. -/
theorem timerWaitNextIteration : Obligations.TimerWaitNextIteration := by
  intro s d hbusy hrst hcur hstrategy
  rw [step_timerWait hbusy hrst hcur hstrategy, timerLoopOps_events hrst]
  obtain hend | hend := Nat.lt_or_ge ((s.env.after 5).now - s.t0) d.toNat
  · rw [timerEnd_short hend]
    exact ⟨_, suspend_running hrst, fun helapsed => absurd hend (Nat.not_lt_of_le helapsed), fun _ => rfl⟩
  · rw [timerEnd_elapsed hend]
    refine ⟨_, finish_running none hrst, fun _ => ?_, fun hshort => absurd hshort (Nat.not_lt_of_le hend)⟩
    rw [State.completed, ← hcur]
    rfl

/-! ### A WAIT of several iterations -/

/-- A strategy-2 `WAIT d` issued in `s`, under way after `n + 1` iterations. -/
def timerState (s : State) (d : BitVec 32) (n : Nat) : State :=
  { (s.underway (.wait d) (6 + 5 * n)).logged (.now (timerStart s) :: timerTrain (timerReading s) 0 (n + 1)) with
    lvl := s.lvl.set .tck 1
    sub := 3
    pulseAt := s.pulseAt ++ pulseStarts (s.tr.length + 1) 5 (n + 1)
    t0 := timerStart s }

/-- The same WAIT complete with that iteration. -/
def timerDone (s : State) (d : BitVec 32) (n : Nat) : State :=
  { (s.completed (.wait d) (6 + 5 * n) none).logged (.now (timerStart s) :: timerTrain (timerReading s) 0 (n + 1)) with
    lvl := s.lvl.set .tck 1
    sub := 3
    pulseAt := s.pulseAt ++ pulseStarts (s.tr.length + 1) 5 (n + 1)
    t0 := timerStart s }

/-- The step of iteration number `n` ends by that iteration's reading (R126). -/
theorem outcome_timerState {s : State} (hrst : s.rst = none) (d : BitVec 32) (n : Nat) :
    (timerEnd d (timerState s d n)).outcome (timerState s d n) =
      if d.toNat ≤ timerReading s n - timerStart s then .next (timerDone s d n) else .next (timerState s d n) := by
  split_ifs with h
  · rw [timerEnd_elapsed h]
    exact finish_running none hrst
  · rw [timerEnd_short (Nat.lt_of_not_le h)]
    exact suspend_running hrst

/-- The operations of the first step are the reading of `T0` and one iteration (R126). -/
theorem firstState_timerWait {s : State} (hrst : s.rst = none) (hstrategy : s.cfg.strategy = .timerDriven) (d : BitVec 32) :
    firstState (.wait d) s = timerState s d 0 := by
  rw [firstState, firstOps_wait_timerDriven hstrategy, timerStartOps_running (s := accept (.wait d) s) hrst,
    timerLoopOps_events (by exact hrst)]
  simp [timerState, State.underway, State.logged, accept, timerTrain, timerStart, timerReading, pulseStarts, Env.after_after]

/-- One more iteration after `n + 1`. -/
theorem timerLoopOps_timerState {s : State} (hrst : s.rst = none) (d : BitVec 32) (n : Nat) :
    timerLoopOps (timerState s d n) = timerState s d (n + 1) := by
  have henv : (s.env.after (6 + 5 * n)).after 5 = s.env.after (6 + 5 * (n + 1)) := Env.after_after s.env (6 + 5 * n) 5
  have hstarts : pulseStarts (s.tr.length + 1) 5 (n + 1 + 1) =
      pulseStarts (s.tr.length + 1) 5 (n + 1) ++ [s.tr.length + 1 + 5 * (n + 1)] := pulseStarts_add _ _ _ 1
  have hlength : s.tr.length + (5 * (n + 1) + 1) = s.tr.length + 1 + 5 * (n + 1) := by omega
  rw [timerLoopOps_events (s := timerState s d n) hrst]
  simp [timerState, State.underway, State.logged, henv, hstarts, hlength, timerTrain_snoc _ _ (n + 1), timerTrain_length,
    timerReading]

/-- A strategy-2 WAIT issued in a ready state (R126). -/
theorem exec_timerWait {s : State} (h : s.Ready) (hstrategy : s.cfg.strategy = .timerDriven) (d : BitVec 32) :
    exec (.wait d) s =
      if d.toNat ≤ timerReading s 0 - timerStart s then .next (timerDone s d 0) else .next (timerState s d 0) := by
  obtain ⟨hbusy, hmode, hrst⟩ := h
  have hend : firstEnd s (.wait d) (timerState s d 0) = timerEnd d (timerState s d 0) := by simp only [firstEnd, hstrategy]
  rw [exec_accepted hbusy (State.admits_of_allConfigured _ hmode), firstState_timerWait hrst hstrategy, hend,
    outcome_timerState hrst]

/-- The step after `n + 1` iterations of a strategy-2 WAIT. -/
theorem step_timerState {s : State} (hrst : s.rst = none) (hstrategy : s.cfg.strategy = .timerDriven) (d : BitVec 32)
    (n : Nat) : step (timerState s d n) = if d.toNat ≤ timerReading s (n + 1) - timerStart s then .next (timerDone s d (n + 1))
      else .next (timerState s d (n + 1)) := by
  rw [step_timerWait (s := timerState s d n) rfl hrst rfl hstrategy, timerLoopOps_timerState hrst, outcome_timerState hrst]

/-- While the readings fall short a presented WAIT is under way after any number of steps (R128). -/
theorem steps_timerState {s : State} {d : BitVec 32} (h : s.Ready) (hstrategy : s.cfg.strategy = .timerDriven)
    (hword : s.cmdWord = some (encode (.wait d))) {n : Nat}
    (hshort : ∀ i, i < n + 1 → timerReading s i - timerStart s < d.toNat) : steps (n + 1) s = .next (timerState s d n) := by
  obtain ⟨hbusy, hmode, hrst⟩ := h
  induction n with
  | zero =>
    rw [steps_one, step_encode hbusy hrst hword, exec_timerWait ⟨hbusy, hmode, hrst⟩ hstrategy,
      if_neg (Nat.not_le_of_lt (hshort 0 Nat.one_pos))]
  | succ n ih =>
    rw [steps_succ (ih fun i hi => hshort i (Nat.lt_succ_of_lt hi)), step_timerState hrst hstrategy,
      if_neg (Nat.not_le_of_lt (hshort (n + 1) (Nat.lt_succ_self _)))]

/-- The first reading that reaches the duration completes a presented WAIT (R126). -/
theorem steps_timerDone {s : State} {d : BitVec 32} (h : s.Ready) (hstrategy : s.cfg.strategy = .timerDriven)
    (hword : s.cmdWord = some (encode (.wait d))) {n : Nat}
    (hshort : ∀ i, i < n → timerReading s i - timerStart s < d.toNat) (hreached : d.toNat ≤ timerReading s n - timerStart s) : steps (n + 1) s = .next (timerDone s d n) := by
  obtain ⟨hbusy, hmode, hrst⟩ := h
  cases n with
  | zero =>
    rw [steps_one, step_encode hbusy hrst hword, exec_timerWait ⟨hbusy, hmode, hrst⟩ hstrategy, if_pos hreached]
  | succ n =>
    rw [steps_succ (steps_timerState ⟨hbusy, hmode, hrst⟩ hstrategy hword hshort), step_timerState hrst hstrategy,
      if_pos hreached]

/-- Contract (a) under strategy 2 (R127): the elapsed time as the clock reports it. -/
theorem duration_le_timerDone {s : State} {d : BitVec 32} {n : Nat} (hreached : d.toNat ≤ timerReading s n - timerStart s) :
    s.env.now + d.toNat ≤ (timerDone s d n).env.now := by
  have hstart : s.env.now ≤ timerStart s := Env.now_le_after s.env 1
  have hread : timerStart s ≤ timerReading s n := Env.after_mono s.env (by omega)
  have hnow : (timerDone s d n).env.now = timerReading s n := rfl
  omega

/-- Each completed strategy-2 WAIT has a pulse of its own (R127). -/
theorem one_le_pulses_timerDone (s : State) (d : BitVec 32) (n : Nat) :
    1 ≤ (timerDone s d n).pulses s.tr.length (timerDone s d n).tr.length := by
  have hlength : (timerDone s d n).tr.length = s.tr.length + (5 * (n + 1) + 1) := by
    simp [timerDone, timerTrain_length]
  refine List.countP_pos_iff.mpr ⟨s.tr.length + 1, ?_, ?_⟩
  · exact List.mem_append_right _ (List.mem_cons_self ..)
  · rw [hlength, Bool.and_eq_true, decide_eq_true_eq, decide_eq_true_eq]
    omega

/-! ### The statements -/

/-- Settles O29. -/
theorem timerWaitFirstIteration : Obligations.TimerWaitFirstIteration := by
  intro s d hready hstrategy
  rw [exec_timerWait hready hstrategy]
  split_ifs with hend
  · exact ⟨_, rfl, fun _ => rfl, fun hshort => absurd hend (Nat.not_le_of_lt hshort)⟩
  · exact ⟨_, rfl, fun helapsed => absurd helapsed hend, fun _ => rfl⟩

/-- Settles O31: the short iterations lead to `timerState`, and the next one ends. -/
theorem timerWaitCompletes : Obligations.TimerWaitCompletes :=
  fun _ _ _ hready hstrategy hword hshort hreached =>
    ⟨_, steps_timerDone hready hstrategy hword hshort hreached, rfl, duration_le_timerDone hreached⟩

/-- Settles O32, by induction on the number of iterations. -/
theorem timerWaitHangs : Obligations.TimerWaitHangs :=
  fun _ _ _ hready hstrategy hword hshort => ⟨_, steps_timerState hready hstrategy hword hshort, rfl⟩

/-- A clock that comes to read `T0 + d` does so at some reading of the loop. -/
theorem exists_timerReading_reached {s : State} {d : BitVec 32} (h : ClockReaches s.env (timerStart s + d.toNat)) :
    ∃ n, d.toNat ≤ timerReading s n - timerStart s := by
  obtain ⟨m, hm⟩ := h
  have hlater : (s.env.after m).now ≤ timerReading s m := Env.after_mono s.env (by omega)
  exact ⟨m, by omega⟩

/-- Settles O33: the first reading that reaches the duration ends the WAIT. -/
theorem timerWaitEndsUnderClockProgress : Obligations.TimerWaitEndsUnderClockProgress := by
  intro s d hready hstrategy hword hclock
  have hexists := exists_timerReading_reached hclock
  have hreached := Nat.find_spec hexists
  have hshort : ∀ i, i < Nat.find hexists → timerReading s i - timerStart s < d.toNat :=
    fun i hi => Nat.lt_of_not_le (Nat.find_min hexists hi)
  exact ⟨_, _, steps_timerDone hready hstrategy hword hshort hreached, rfl, rfl, rfl, one_le_pulses_timerDone s d _,
    duration_le_timerDone hreached⟩

end Sys2Proof.Machine
end

section
/-! O34 to O39: WAIT under strategy 3 (R129 to R132). A short wait is a counted pulse loop; a long one drives TCK low and
sleeps, and each poll after the first is a step that changes nothing but the environment until the platform resumes the block. -/

namespace Sys2Proof.Machine

/-! ### The arithmetic -/

/-- The ceiling, which neither wraps nor loses a bit (R130, R137 item 5). -/
theorem sleepMs_toNat (d : BitVec 32) : (sleepMs d).toNat = (d.toNat + 999) / 1000 := by
  have hd := d.isLt
  have hus : usPerMs.toNat = 1000 := rfl
  have hless : (usPerMs - 1).toNat = 999 := rfl
  rw [sleepMs, BitVec.toNat_setWidth, BitVec.toNat_udiv, BitVec.toNat_add, BitVec.toNat_setWidth, hus, hless]
  omega

/-- Settles O39: the ceiling of the quotient by 1000. -/
theorem cutoffAndCeiling : Obligations.CutoffAndCeiling := by
  intro d
  have hd := d.isLt
  refine ⟨isLongWait_iff d, sleepMs_toNat d, ?_⟩
  rw [sleepMs_toNat]
  omega

/-! ### A short wait -/

/-- WAIT of at most 50 in a ready state (R129): `d` pulses, counted, and the handshake. -/
theorem exec_shortWait {s : State} (h : s.Ready) (hstrategy : s.cfg.strategy = .thresholdDriven) {d : BitVec 32}
    (hd : d.toNat ≤ 50) : exec (.wait d) s = .next
      { (s.completed (.wait d) (4 * d.toNat) none).pulsed d.toNat with cyc := d.setWidth 48, acc := d.setWidth 48 } := by
  obtain ⟨hbusy, hmode, hrst⟩ := h
  have hshort : ¬ isLongWait d = true := fun hl => absurd ((isLongWait_iff d).mp hl) (Nat.not_lt_of_le hd)
  have hend : firstEnd s (.wait d) (firstState (.wait d) s) = .complete none := by
    simp only [firstEnd, hstrategy, if_neg hshort]
  have hcount : (d.setWidth 48).toNat = d.toNat := BitVec.toNat_setWidth_of_le (by decide)
  rw [exec_accepted hbusy (State.admits_of_allConfigured _ hmode), hend, firstState, firstOps_wait_short hstrategy hshort,
    countedPulses_running _ (s := accept (.wait d) s) hrst, hcount]
  exact finish_running none hrst

theorem sleepCalls_append (T U : List Event) : sleepCalls (T ++ U) = sleepCalls T ++ sleepCalls U := by
  simp [sleepCalls]

theorem sleeps_pulseTrain (n : Nat) : sleeps (pulseTrain n) = 0 := by
  induction n with
  | zero => rfl
  | succ n ih =>
    rw [sleeps, pulseTrain, sleepCalls_append, List.length_append]
    exact (Nat.zero_add _).trans ih

/-- Settles O34. -/
theorem thresholdShortWait : Obligations.ThresholdShortWait :=
  fun _ d hready hstrategy hd =>
    ⟨⟨_, exec_shortWait hready hstrategy hd, rfl⟩, fun unknown p => rises_pulseTrain unknown p _,
      sleeps_pulseTrain d.toNat⟩

/-! ### A long wait -/

/-- A long `WAIT d` issued in `s`, the block asleep after `k + 1` polls. -/
def sleepState (s : State) (d : BitVec 32) (k : Nat) : State :=
  { (s.underway (.wait d) (4 + k)).logged [.write .tck 0, .settle, .sleep (sleepMs d).toNat] with
    lvl := s.lvl.set .tck 0 }

/-- The same WAIT complete with that poll. -/
def sleepDone (s : State) (d : BitVec 32) (k : Nat) : State :=
  { (s.completed (.wait d) (4 + k) none).logged [.write .tck 0, .settle, .sleep (sleepMs d).toNat] with
    lvl := s.lvl.set .tck 0 }

/-- The end of a poll is the platform's (R163, R164). -/
theorem outcome_sleepEnd {u : State} (hrst : u.rst = none) (e : Env) : (sleepEnd e).outcome u =
    if e.next.wake then .next { u with busy := false, done := true, rdata := none, cp := u.cp + 1 } else .next u := by
  rw [sleepEnd]
  split_ifs
  · exact finish_running none hrst
  · exact suspend_running hrst

/-- A long WAIT in a ready state falls asleep, and its first poll decides whether it stays so (R129). -/
theorem exec_longWait {s : State} (h : s.Ready) (hstrategy : s.cfg.strategy = .thresholdDriven) {d : BitVec 32}
    (hd : 50 < d.toNat) : exec (.wait d) s =
      if (s.env.after 3).next.wake then .next (sleepDone s d 0) else .next (sleepState s d 0) := by
  obtain ⟨hbusy, hmode, hrst⟩ := h
  have hlong : isLongWait d = true := (isLongWait_iff d).mpr hd
  have hstate : firstState (.wait d) s = sleepState s d 0 := by
    rw [firstState, firstOps_wait_long hstrategy hlong, sleepOps_running d (s := accept (.wait d) s) hrst,
      microOp_id_running (by exact hrst)]
    simp only [Env.after_after]
    rfl
  have hend : firstEnd s (.wait d) (sleepState s d 0) = sleepEnd (s.env.after 3) := by
    simp only [firstEnd, hstrategy, if_pos hlong]
  rw [exec_accepted hbusy (State.admits_of_allConfigured _ hmode), hstate, hend]
  exact outcome_sleepEnd (u := sleepState s d 0) hrst _

/-- A further step of a long WAIT is one poll (R132, R164). -/
theorem step_asleep {s : State} {d : BitVec 32} (hbusy : s.busy = true) (hrst : s.rst = none)
    (hcur : s.cur = encode (.wait d)) (hstrategy : s.cfg.strategy = .thresholdDriven) (hd : 50 < d.toNat) :
    step s = if s.env.next.wake then .next (s.completed (.wait d) 1 none) else .next { s with env := s.env.after 1 } := by
  have hlong : isLongWait d = true := (isLongWait_iff d).mpr hd
  have hops : laterOps s = microOp id := by simp only [laterOps, hcur, decode_encode, hstrategy, hlong, if_true]
  have hend : ∀ u, laterEnd s u = sleepEnd s.env := by
    intro u
    simp only [laterEnd, hcur, decode_encode, hstrategy, hlong, if_true]
  rw [step_busy hbusy hrst, continueCommand_eq, hops, hend, microOp_id_running hrst, outcome_sleepEnd (by exact hrst),
    State.completed, ← hcur]

theorem sleepRequest_asleep {s : State} {d : BitVec 32} (hbusy : s.busy = true) (hcur : s.cur = encode (.wait d))
    (hstrategy : s.cfg.strategy = .thresholdDriven) (hd : 50 < d.toNat) : sleepRequest s = some (sleepMs d) := by
  have hlong : isLongWait d = true := (isLongWait_iff d).mpr hd
  simp [sleepRequest, hbusy, hcur, hstrategy, decode_encode, hlong]

/-- The step after `k + 1` polls of a long WAIT. -/
theorem step_sleepState {s : State} (hrst : s.rst = none) (hstrategy : s.cfg.strategy = .thresholdDriven) {d : BitVec 32}
    (hd : 50 < d.toNat) (k : Nat) : step (sleepState s d k) =
      if (s.env.after (3 + (k + 1))).next.wake then .next (sleepDone s d (k + 1)) else .next (sleepState s d (k + 1)) := by
  have hmoved : (s.env.after (4 + k)).after 1 = s.env.after (4 + (k + 1)) := Env.after_after s.env (4 + k) 1
  have henv : (sleepState s d k).env = s.env.after (3 + (k + 1)) :=
    congrArg (fun n => s.env.after n) (show 4 + k = 3 + (k + 1) by omega)
  have hdone : (sleepState s d k).completed (.wait d) 1 none = sleepDone s d (k + 1) := by
    rw [sleepDone, State.completed, State.completed, ← hmoved]
    rfl
  have hasleep : { sleepState s d k with env := (sleepState s d k).env.after 1 } = sleepState s d (k + 1) := by
    rw [sleepState, sleepState, State.underway, State.underway, ← hmoved]
    rfl
  rw [step_asleep (s := sleepState s d k) rfl hrst rfl hstrategy hd, hdone, hasleep, henv]

/-- A presented long WAIT that the platform does not resume sleeps on, for any number of steps (R163). -/
theorem steps_sleepState {s : State} {d : BitVec 32} (h : s.Ready) (hstrategy : s.cfg.strategy = .thresholdDriven)
    (hd : 50 < d.toNat) (hword : s.cmdWord = some (encode (.wait d))) {k : Nat}
    (hasleep : ∀ j, j < k + 1 → (s.env.after (3 + j)).next.wake = false) : steps (k + 1) s = .next (sleepState s d k) := by
  obtain ⟨hbusy, hmode, hrst⟩ := h
  induction k with
  | zero =>
    have hfirst : (s.env.after 3).next.wake = false := hasleep 0 Nat.one_pos
    rw [steps_one, step_encode hbusy hrst hword, exec_longWait ⟨hbusy, hmode, hrst⟩ hstrategy hd, hfirst]
    rfl
  | succ k ih =>
    rw [steps_succ (ih fun j hj => hasleep j (Nat.lt_succ_of_lt hj)), step_sleepState hrst hstrategy hd,
      hasleep (k + 1) (Nat.lt_succ_self _)]
    rfl

/-- A presented long WAIT completes at the first poll at which the platform resumes the block (R163). -/
theorem steps_sleepDone {s : State} {d : BitVec 32} (h : s.Ready) (hstrategy : s.cfg.strategy = .thresholdDriven)
    (hd : 50 < d.toNat) (hword : s.cmdWord = some (encode (.wait d))) {k : Nat}
    (hasleep : ∀ j, j < k → (s.env.after (3 + j)).next.wake = false) (hwake : (s.env.after (3 + k)).next.wake = true) :
    steps (k + 1) s = .next (sleepDone s d k) := by
  obtain ⟨hbusy, hmode, hrst⟩ := h
  cases k with
  | zero =>
    have hfirst : (s.env.after 3).next.wake = true := hwake
    rw [steps_one, step_encode hbusy hrst hword, exec_longWait ⟨hbusy, hmode, hrst⟩ hstrategy hd, if_pos hfirst]
  | succ k =>
    rw [steps_succ (steps_sleepState ⟨hbusy, hmode, hrst⟩ hstrategy hd hword hasleep), step_sleepState hrst hstrategy hd,
      if_pos hwake]

/-- Contract (a) of a long WAIT whose sleep is not early (R131, R163). -/
theorem duration_le_sleepDone {s : State} {d : BitVec 32} {k : Nat} (hwake : (s.env.after (3 + k)).next.wake = true)
    (htrue : SleepNotEarly (s.env.after 3) (sleepMs d).toNat) : s.env.now + d.toNat ≤ (sleepDone s d k).env.now := by
  have hpoll : ((s.env.after 3).after k).next.wake = true := by rwa [Env.after_after]
  have hslept := htrue k hpoll
  have hmoves : 3 + (k + 1) = 4 + k := by omega
  have hend : ((s.env.after 3).after (k + 1)).now = (sleepDone s d k).env.now := by
    rw [Env.after_after, hmoves]
    rfl
  have hcall : s.env.now ≤ (s.env.after 3).now := Env.now_le_after s.env 3
  have hcovers : d.toNat ≤ 1000 * (sleepMs d).toNat := by
    rw [sleepMs_toNat]
    omega
  omega

/-! ### The statements -/

/-- Settles O35. -/
theorem thresholdLongWait : Obligations.ThresholdLongWait := by
  intro s d hready hstrategy hd
  rw [exec_longWait hready hstrategy hd, ← sleepMs_toNat]
  constructor
  · intro hwake
    rw [if_pos hwake]
    rfl
  · intro hwake
    rw [hwake]
    rfl

/-- Settles O36. -/
theorem sleepingBlockWaitsForThePlatform : Obligations.SleepingBlockWaitsForThePlatform := by
  intro s d hbusy hrst hcur hstrategy hd
  have hstep := step_asleep hbusy hrst hcur hstrategy hd
  refine ⟨sleepRequest_asleep hbusy hcur hstrategy hd, fun hwake => ?_, fun hwake => ?_⟩
  · rw [hstep, if_pos hwake]
  · rw [hstep, hwake]
    rfl

/-- Settles O37, by induction on the number of polls. -/
theorem longWaitUntilResumed : Obligations.LongWaitUntilResumed := by
  intro s d k hready hstrategy hd hword hasleep
  constructor
  · intro hon
    refine steps_sleepState hready hstrategy hd hword fun j hj => ?_
    obtain hj | rfl := Nat.lt_succ_iff_lt_or_eq.mp hj
    · exact hasleep j hj
    · exact hon
  · intro hwake
    exact ⟨_, steps_sleepDone hready hstrategy hd hword hasleep hwake, rfl, duration_le_sleepDone hwake⟩

/-- Settles O38: the first poll at which the platform resumes the block ends the WAIT. -/
theorem longWaitUnderSleepTrue : Obligations.LongWaitUnderSleepTrue := by
  rintro s d hready hstrategy hd hword ⟨hreturns, htrue⟩
  have hexists : ∃ k, (s.env.after (3 + k)).next.wake = true := by
    obtain ⟨k, hk⟩ := hreturns
    exact ⟨k, by rwa [Env.after_after] at hk⟩
  have hwake := Nat.find_spec hexists
  have hasleep : ∀ j, j < Nat.find hexists → (s.env.after (3 + j)).next.wake = false :=
    fun j hj => Bool.eq_false_of_not_eq_true (Nat.find_min hexists hj)
  exact ⟨_, _, hasleep, hwake, steps_sleepDone hready hstrategy hd hword hasleep hwake, rfl,
    duration_le_sleepDone hwake htrue⟩

end Sys2Proof.Machine
end

section
/-! O25 to O28: WAIT under strategy 1 (R123 to R125, R135). The completed WAIT is written out as `clockDone`: its record counts
the pulses, and its clock has gone on by the time of its events. -/

namespace Sys2Proof.Machine

/-- A strategy-1 `WAIT d` issued in `s`, complete (R123). -/
def clockDone (s : State) (d : BitVec 32) : State :=
  { (s.completed (.wait d) (4 * (d.toNat * s.cfg.cpm.toNat)) none).pulsed (d.toNat * s.cfg.cpm.toNat) with
    cyc := pulseTarget d s.cfg.cpm
    acc := pulseTarget d s.cfg.cpm }

theorem exec_clockWait {s : State} (h : s.Ready) (hstrategy : s.cfg.strategy = .clockDriven) (d : BitVec 32) :
    exec (.wait d) s = .next (clockDone s d) := by
  rw [exec_wait_clockDriven_ready d h hstrategy, toNat_pulseTarget]
  rfl

/-! ### The pulse-count contract -/

/-- The WAIT's own pulses in a segment of its events (R38). -/
theorem pulses_clockDone (s : State) (d : BitVec 32) {a b : Nat} (hab : a ≤ b) (hb : b ≤ 4 * (d.toNat * s.cfg.cpm.toNat)) :
    (clockDone s d).pulses (s.tr.length + a) (s.tr.length + b) =
      pulsesIn s.pulseAt (s.tr.length + a) (s.tr.length + b) + (b / 4 - (a + 3) / 4) := by
  have hmarks : (clockDone s d).pulseAt = s.pulseAt ++ pulseStarts s.tr.length 4 (d.toNat * s.cfg.cpm.toNat) := rfl
  have hwhole : min (b / 4) (d.toNat * s.cfg.cpm.toNat) = b / 4 := min_eq_left (by omega)
  rw [State.pulses, hmarks, pulsesIn_append, pulsesIn_pulseStarts _ _ hab, hwhole]

/-- Settles O25: no execution recorded before the WAIT has an event in the segment. -/
theorem segmentsCountTheirPulses : Obligations.SegmentsCountTheirPulses := by
  intro s d a b hready hstrategy hrecorded hab hb
  refine ⟨_, exec_clockWait hready hstrategy d, ?_⟩
  rw [pulses_clockDone s d hab hb, pulsesIn_of_recorded hrecorded (Nat.le_add_right _ _), Nat.zero_add]

/-- Settles O26: all `d × CFG.CPM` pulses lie whole in the WAIT's events. -/
theorem clockDrivenPulseContract : Obligations.ClockDrivenPulseContract := by
  intro s d hready hstrategy hcpm
  refine ⟨_, exec_clockWait hready hstrategy d, rfl, ?_⟩
  have hlength : (clockDone s d).tr.length = s.tr.length + 4 * (d.toNat * s.cfg.cpm.toNat) := by
    simp [clockDone, pulseTrain_length]
  have hpulses := pulses_clockDone s d (Nat.zero_le _) le_rfl
  rw [Nat.add_zero] at hpulses
  have hcpm1 : 1 ≤ s.cfg.cpm.toNat := by
    rw [Nat.one_le_iff_ne_zero]
    exact fun h0 => hcpm (BitVec.eq_of_toNat_eq h0)
  have hmany : d.toNat ≤ d.toNat * s.cfg.cpm.toNat := Nat.le_mul_of_pos_right _ hcpm1
  rw [hlength, hpulses]
  omega

/-! ### The duration contract -/

/-- The WAIT lasts its duration exactly where the block is calibrated for it (R135). -/
theorem duration_le_clockDone_iff (s : State) (d : BitVec 32) :
    s.env.now + d.toNat ≤ (clockDone s d).env.now ↔ s.CalibratedFor d := by
  have hnow : (clockDone s d).env.now = (s.env.after (4 * (d.toNat * s.cfg.cpm.toNat))).now := rfl
  have hmono := Env.now_le_after s.env (4 * (d.toNat * s.cfg.cpm.toNat))
  rw [hnow, State.CalibratedFor, Env.time]
  omega

/-- Settles O27. -/
theorem calibratedWaitLastsItsDuration : Obligations.CalibratedWaitLastsItsDuration := by
  intro s hready hstrategy
  have hexec := exec_clockWait hready hstrategy
  refine ⟨fun d => ⟨_, hexec d, rfl, duration_le_clockDone_iff s d⟩, ?_, ?_⟩
  · exact fun hcalibrated d => ⟨_, hexec d, (duration_le_clockDone_iff s d).mpr (hcalibrated d)⟩
  · intro hlasts d
    obtain ⟨t, ht, hlast⟩ := hlasts d
    rw [hexec d] at ht
    cases ht
    exact (duration_le_clockDone_iff s d).mp hlast

/-- The time of two segments, one after the other (R135). -/
theorem Env.time_add (e : Env) (m n : Nat) : e.time (m + n) = e.time m + (e.after m).time n := by
  have h0 := Env.now_le_after e m
  have h1 := Env.now_le_after (e.after m) n
  simp only [Env.time, Env.after_after] at h1 ⊢
  omega

/-- `m` pulses of at least `num / den` microseconds each take at least `m` times that. -/
theorem PulsesTakeAtLeast.mul_le_time {e : Env} {n num den : Nat} (h : PulsesTakeAtLeast e n num den) {m : Nat} (hm : m ≤ n) :
    m * num ≤ den * e.time (4 * m) := by
  induction m with
  | zero => rw [Nat.zero_mul]; exact Nat.zero_le _
  | succ m ih =>
    have hlast := h m hm
    have hbefore := ih (Nat.le_of_succ_le hm)
    rw [Nat.mul_succ, Env.time_add, Nat.mul_add, Nat.succ_mul]
    exact Nat.add_le_add hbefore hlast

/-- `CFG.CPM` pulses for each microsecond last it where `CFG.CPM × num / den` is at least 1 (R135). -/
theorem calibratedFor_of_pulsesTakeAtLeast {s : State} {n num den : Nat} (hden : 0 < den)
    (hcpm : den ≤ s.cfg.cpm.toNat * num) (hpulses : PulsesTakeAtLeast s.env n num den) {d : BitVec 32}
    (hd : d.toNat * s.cfg.cpm.toNat ≤ n) : s.CalibratedFor d := by
  refine Nat.le_of_mul_le_mul_left ?_ hden
  calc den * d.toNat
    _ ≤ s.cfg.cpm.toNat * num * d.toNat := Nat.mul_le_mul_right _ hcpm
    _ = d.toNat * s.cfg.cpm.toNat * num := by ring
    _ ≤ den * s.env.time (4 * (d.toNat * s.cfg.cpm.toNat)) := hpulses.mul_le_time hd

/-- Settles O28: no duration is longer than 4294967295. -/
theorem leastPulseTimeCalibrates : Obligations.LeastPulseTimeCalibrates := by
  intro s n num den hden hcpm hpulses
  refine ⟨fun d => calibratedFor_of_pulsesTakeAtLeast hden hcpm hpulses, fun hall d => ?_⟩
  have hd : d.toNat ≤ 4294967295 := Nat.le_of_lt_succ d.isLt
  exact calibratedFor_of_pulsesTakeAtLeast hden hcpm hpulses ((Nat.mul_le_mul_right _ hd).trans hall)

end Sys2Proof.Machine
end

section
/-! O13 to O15, O17 to O20 and O23: INIT, SET and READ, and PULSE as a pair of SETs (R90 to R98, R113). -/

namespace Sys2Proof.Machine

/-! ### INIT -/

/-- INIT issued in `s`, complete (R90). -/
def initDone (s : State) : State :=
  { (s.completed .init 4 none).logged (cfgEvents (Config.initOrder s.env.draws)) with mode := .configured }

/-- Settles O13: the calls come in one of the orders. -/
theorem initConfiguresPins : Obligations.InitConfiguresPins :=
  fun s hidle => ⟨cfgEvents (Config.initOrder s.env.draws), cfgEvents_perm _, exec_init_idle hidle⟩

theorem outPad_congr {s t : State} (hmode : t.mode = s.mode) {o : OutSignal} (hlvl : t.lvl.get o = s.lvl.get o) (probe : Nat) :
    outPad t o probe = outPad s o probe := by
  simp only [outPad, driveLevel, hmode, hlvl]

/-- Settles O14: a block that INIT has left is idle, and configured already. -/
theorem initIsIdempotent : Obligations.InitIsIdempotent := by
  rintro s ⟨hbusy, hrst⟩
  have hagain : exec .init (initDone s) = .next (initDone (initDone s)) := exec_init_idle ⟨rfl, hrst⟩
  refine ⟨initDone s, initDone (initDone s), cfgEvents (Config.initOrder s.env.draws),
    cfgEvents (Config.initOrder (initDone s).env.draws), exec_init_idle ⟨hbusy, hrst⟩, hagain, rfl, rfl,
    (cfgEvents_perm _).trans (cfgEvents_perm _).symm, cfgEvents_perm _, rfl, rfl, ?_⟩
  exact fun hmode o probe => outPad_congr (s := s) (t := initDone s) hmode.symm rfl probe

/-! ### SET -/

/-- SET of a driven line issued in `s`, complete (R97). -/
def setDone (s : State) (o : OutSignal) (v : Level) : State :=
  { (s.completed (.set (codeOf o) v) (if o = .tck then 2 else 1) none).logged (setEvents o v) with lvl := s.lvl.set o v }

theorem exec_set_codeOf {s : State} (h : s.Ready) (o : OutSignal) (v : Level) :
    exec (.set (codeOf o) v) s = .next (setDone s o v) := by
  obtain ⟨_, _, hrst⟩ := id h
  rw [exec_set_ready _ v h, setSignal_codeOf_running o v (s := accept (.set (codeOf o) v) s) hrst]
  exact finish_running none hrst

/-- Settles O15. -/
theorem setWritesOutputLine : Obligations.SetWritesOutputLine := fun _ o v hready => exec_set_codeOf hready o v

/-- Settles O17: the code of TDO drives no line. -/
theorem setOfTdoIsIgnored : Obligations.SetOfTdoIsIgnored := by
  have hundriven : 3 ≤ (3 : BitVec 8).toNat := by decide
  exact fun s v => ⟨setSignal_no_effect hundriven v s, exec_set_no_effect hundriven v⟩

/-! ### The pads -/

theorem linePad_toSignal (s : State) (probe : Nat) (o : OutSignal) : linePad s probe o.toSignal = outPad s o probe := by
  cases o <;> rfl

/-- A line's pad shows its mode and its latch, if it has one (R27, R28). -/
theorem linePad_congr {s t : State} (hmode : t.mode = s.mode) {sig : Signal}
    (hlvl : ∀ o : OutSignal, o.toSignal = sig → t.lvl.get o = s.lvl.get o) (probe : Nat) :
    linePad t probe sig = linePad s probe sig := by
  cases sig with
  | tck => exact outPad_congr hmode (hlvl .tck rfl) probe
  | tms => exact outPad_congr hmode (hlvl .tms rfl) probe
  | tdi => exact outPad_congr hmode (hlvl .tdi rfl) probe
  | tdo => simp only [linePad, tdoPad, hmode]

/-- A probe sees the lines bound to its pad, and nothing else (R51). -/
theorem probePad_congr {s t : State} (hcfg : t.cfg = s.cfg) {p : Pad} {probe : Nat}
    (hlines : ∀ sig, s.cfg.bind.pad sig = p → linePad t probe sig = linePad s probe sig) :
    probePad t p probe = probePad s p probe := by
  unfold probePad
  rw [hcfg]
  split_ifs with htck htms htdi htdo
  · exact hlines .tck htck
  · exact hlines .tms htms
  · exact hlines .tdi htdi
  · exact hlines .tdo htdo
  · rfl

/-- Under an injective binding a probe of a line's pad sees that line (R23, R51). -/
theorem probePad_pad {s : State} (hinjective : s.cfg.bind.Injective) (sig : Signal) (probe : Nat) :
    probePad s (s.cfg.bind.pad sig) probe = linePad s probe sig := by
  simp only [Binding.Injective, List.nodup_cons, List.mem_cons, List.not_mem_nil, or_false, not_or] at hinjective
  obtain ⟨⟨hck_ms, hck_di, hck_do⟩, ⟨hms_di, hms_do⟩, hdi_do, _⟩ := hinjective
  cases sig <;> simp [probePad, Binding.pad, hck_ms, hck_di, hck_do, hms_di, hms_do, hdi_do]

/-- Settles O18: SET changes one latch, and one line is bound to the pad. -/
theorem setIsSeenOnTheBoundPadOnly : Obligations.SetIsSeenOnTheBoundPadOnly := by
  intro s o v hready hmode hinjective
  refine ⟨setDone s o v, exec_set_codeOf hready o v, fun probe => ?bound, fun p probe hp => ?other⟩
  case bound =>
    have hdriven : (setDone s o v).mode.get o.toSignal = .out := by
      rw [show (setDone s o v).mode = .configured from hmode]
      cases o <;> rfl
    have hlevel : (setDone s o v).lvl.get o = some v := Latches.get_set_same s.lvl o v
    refine (probePad_pad (s := setDone s o v) hinjective o.toSignal probe).trans ?_
    rw [linePad_toSignal]
    simp only [outPad, driveLevel, hdriven, hlevel]
  case other =>
    refine probePad_congr (s := s) (t := setDone s o v) rfl fun sig hsig => ?_
    refine linePad_congr (s := s) (t := setDone s o v) rfl (fun o' ho' => ?_) probe
    refine Latches.get_set_other s.lvl v fun hsame => hp ?_
    rw [← hsig, ← ho', hsame]

/-! ### READ -/

/-- READ in a ready state returns the sample of the line as it is presented (R98, R35). -/
theorem exec_read_ready {s : State} (h : s.Ready) : exec .read s = .next
    ((s.completed .read 1 (some (sampledLevel s.env.next.tdo))).logged [.sample (sampledLevel s.env.next.tdo)]) := by
  obtain ⟨hbusy, hmode, hrst⟩ := h
  rw [exec_read, issue_admitted _ _ hbusy (State.admits_of_allConfigured _ hmode),
    padSample_running (s := accept .read s) hrst]
  exact finish_running _ hrst

/-- Settles O19. -/
theorem readReturnsPresentedLevel : Obligations.ReadReturnsPresentedLevel := by
  intro s b hready hline
  have hsample : sampledLevel s.env.next.tdo = b := by
    obtain ⟨htdo, rfl⟩ | ⟨htdo, rfl⟩ := hline <;> rw [htdo] <;> rfl
  rw [exec_read_ready hready, hsample]

/-- Settles O20. -/
theorem undrivenTdoReadsHigh : Obligations.UndrivenTdoReadsHigh := by
  intro s hready hline
  rw [exec_read_ready hready, hline]
  rfl

/-! ### PULSE and the pair -/

/-- Settles O23: both make two TCK writes with their settle delays. -/
theorem pulseEqualsSetPair : Obligations.PulseEqualsSetPair := by
  rintro s ⟨hbusy, hmode, hrst⟩
  have hlow : exec (.set 0 0) s = .next (setDone s .tck 0) := exec_set_codeOf ⟨hbusy, hmode, hrst⟩ .tck 0
  have hhigh : exec (.set 0 1) (setDone s .tck 0) = .next (setDone (setDone s .tck 0) .tck 1) :=
    exec_set_codeOf (s := setDone s .tck 0) ⟨rfl, hmode, hrst⟩ .tck 1
  have htr : (setDone (setDone s .tck 0) .tck 1).tr = s.tr ++ pulseTrain 1 := by
    simp [setDone, setEvents, pulseTrain, pulseEvents]
  have hlvl : (setDone (setDone s .tck 0) .tck 1).lvl = s.lvl.set .tck 1 := Latches.set_set s.lvl .tck 0 1
  refine ⟨_, _, _, exec_pulse_ready ⟨hbusy, hmode, hrst⟩, hlow, hhigh, htr.symm, hlvl.symm, rfl, rfl, rfl, rfl, ?_⟩
  simp [setDone, codeOf, State.completed, State.pulsed, State.logged, setEvents, pulseTrain, pulseEvents, Env.after_after]

end Sys2Proof.Machine
end

section
/-! O40 to O42 and O53: what a whole command does to TCK, to the registers and to BUSY (R138, R25 to R32). -/

namespace Sys2Proof.Machine

/-! ### BUSY and TCK after WAIT -/

/-- A command but WAIT is complete with its first step. -/
theorem firstEnd_eq_complete {i : Instr} (hi : ∀ d, i ≠ .wait d) (s u : State) : ∃ r, firstEnd s i u = .complete r := by
  cases i with
  | init | set | read | pulse => exact ⟨_, rfl⟩
  | wait d => exact absurd rfl (hi d)

theorem State.BusyOnlyInWait.of_idle {s : State} (h : s.busy = false) : s.BusyOnlyInWait := by
  intro hbusy
  rw [h] at hbusy
  cases hbusy

/-- A WAIT issued in a ready state is left under way in strategy 2's loop or asleep only. -/
theorem busyOnlyInWait_of_exec_wait {s t : State} {d : BitVec 32} (hready : s.Ready) (h : exec (.wait d) s = .next t) :
    t.BusyOnlyInWait := by
  cases hstrategy : s.cfg.strategy with
  | clockDriven =>
    rw [exec_clockWait hready hstrategy] at h
    cases h
    exact .of_idle rfl
  | timerDriven =>
    rw [exec_timerWait hready hstrategy] at h
    split_ifs at h with hend
    · cases h
      exact .of_idle rfl
    · cases h
      exact fun _ => ⟨d, rfl, .inl ⟨hstrategy, Env.after_mono s.env (by omega), Nat.lt_of_not_le hend⟩⟩
  | thresholdDriven =>
    obtain hd | hd := Nat.lt_or_ge 50 d.toNat
    · rw [exec_longWait hready hstrategy hd] at h
      split_ifs at h
      · cases h
        exact .of_idle rfl
      · cases h
        exact fun _ => ⟨d, rfl, .inr ⟨hstrategy, hd, rfl⟩⟩
    · rw [exec_shortWait hready hstrategy hd] at h
      cases h
      exact .of_idle rfl

theorem busyOnlyInWait_of_exec {i : Instr} {s t : State} (hrst : s.rst = none) (hP : s.BusyOnlyInWait)
    (h : exec i s = .next t) : t.BusyOnlyInWait := by
  obtain rfl | ⟨hbusy, hadmits⟩ := eq_or_accepted_of_exec h
  · exact hP
  by_cases hi : ∃ d, i = .wait d
  · obtain ⟨d, rfl⟩ := hi
    exact busyOnlyInWait_of_exec_wait ⟨hbusy, hadmits, hrst⟩ h
  · obtain ⟨r, hend⟩ := firstEnd_eq_complete (not_exists.mp hi) s (firstState i s)
    have hrun : (firstState i s).rst = none := ((cuts_firstOps s i).run (accept i s) hrst).1
    rw [exec_accepted hbusy hadmits, hend, StepEnd.outcome_complete, finish_running r hrun] at h
    cases h
    exact .of_idle rfl

/-- A busy block's next step, where it is in a WAIT whose end the environment decides (R126, R132). -/
theorem busyOnlyInWait_step_busy {s : State} (hbusy : s.busy = true) (hrst : s.rst = none) (hP : s.BusyOnlyInWait) :
    ∃ t, step s = .next t ∧ t.BusyOnlyInWait ∧ t.lvl.tck = if s.cfg.strategy = .timerDriven then some 1 else some 0 := by
  obtain ⟨d, hcur, ⟨hstrategy, hclock, _⟩ | ⟨hstrategy, hd, htck⟩⟩ := hP hbusy
  · rw [step_timerWait hbusy hrst hcur hstrategy, timerLoopOps_events hrst, if_pos hstrategy]
    obtain hend | hend := Nat.lt_or_ge ((s.env.after 5).now - s.t0) d.toNat
    · rw [timerEnd_short hend]
      refine ⟨_, suspend_running hrst, fun _ => ⟨d, hcur, .inl ⟨hstrategy, ?_, hend⟩⟩, rfl⟩
      exact hclock.trans (Env.now_le_after s.env 5)
    · rw [timerEnd_elapsed hend]
      exact ⟨_, finish_running none hrst, .of_idle rfl, rfl⟩
  · have hnot : ¬ s.cfg.strategy = .timerDriven := by
      rw [hstrategy]
      exact nofun
    rw [step_asleep hbusy hrst hcur hstrategy hd, if_neg hnot]
    split_ifs
    · exact ⟨_, rfl, .of_idle rfl, htck⟩
    · exact ⟨_, rfl, fun _ => ⟨d, hcur, .inr ⟨hstrategy, hd, htck⟩⟩, htck⟩

theorem busyOnlyInWait_of_step_running {s t : State} (hrst : s.rst = none) (hP : s.BusyOnlyInWait) (h : step s = .next t) :
    t.BusyOnlyInWait := by
  cases hbusy : s.busy with
  | true =>
    obtain ⟨u, hu, hPu, _⟩ := busyOnlyInWait_step_busy hbusy hrst hP
    rw [hu] at h
    cases h
    exact hPu
  | false =>
    obtain rfl | ⟨i, hexec⟩ := eq_or_exec_of_step_idle h hbusy hrst
    · exact hP
    · exact busyOnlyInWait_of_exec hrst hP hexec

/-- Settles O53: a reset leaves the block idle, and of the ends of a step only strategy 2's and a sleep's leave it busy. -/
theorem stepKeepsBusyOnlyInWait : Obligations.StepKeepsBusyOnlyInWait := by
  intro s t hP h
  obtain ⟨c, k, _, hafter⟩ | ⟨u, r, hu, rfl⟩ := reset_or_running_of_step h
  · rw [hafter]
    exact .of_idle rfl
  · exact (busyOnlyInWait_of_step_running (s := s.withRst none) (t := u) rfl hP hu :)

/-- TCK after a WAIT of `n` pulses from a ready state. -/
theorem pulsed_lvl_tck (s : State) (n : Nat) : (s.pulsed n).lvl.tck = if n = 0 then s.lvl.tck else some 1 := by
  rw [State.pulsed_lvl]
  split_ifs <;> rfl

/-- Settles O40, strategy by strategy. -/
theorem tckLevelAfterWait : Obligations.TckLevelAfterWait := by
  constructor
  · intro s t d hready hcpm h
    have hd0 : d.toNat = 0 ↔ d = 0 := BitVec.toNat_inj (y := 0)
    cases hstrategy : s.cfg.strategy with
    | clockDriven =>
      have hzero : d.toNat * s.cfg.cpm.toNat = 0 ↔ d = 0 := by
        have hcpm0 : s.cfg.cpm.toNat ≠ 0 := fun h0 => hcpm (BitVec.eq_of_toNat_eq h0)
        rw [Nat.mul_eq_zero, or_iff_left hcpm0, hd0]
      rw [exec_clockWait hready hstrategy] at h
      cases h
      refine (pulsed_lvl_tck _ _).trans ?_
      simp only [hzero]
      rfl
    | timerDriven =>
      rw [exec_timerWait hready hstrategy] at h
      split_ifs at h <;> cases h <;> rfl
    | thresholdDriven =>
      obtain hd | hd := Nat.lt_or_ge 50 d.toNat
      · have hnonzero : d ≠ 0 := fun h0 => absurd (hd0.mpr h0) (by omega)
        have htck : t.lvl.tck = some 0 := by
          rw [exec_longWait hready hstrategy hd] at h
          split_ifs at h <;> cases h <;> rfl
        simp only [htck, if_neg hnonzero, if_neg (Nat.not_le_of_lt hd)]
      · rw [exec_shortWait hready hstrategy hd] at h
        cases h
        refine (pulsed_lvl_tck _ _).trans ?_
        simp only [hd0, if_pos hd]
        rfl
  · intro s hbusy hrst hP
    obtain ⟨t, ht, _, htck⟩ := busyOnlyInWait_step_busy hbusy hrst hP
    exact ⟨t, ht, htck⟩

/-! ### Outcomes and writers -/

/-- Settles O41: an accepted command ends in a next state, whichever way its step ends. -/
theorem readyCommandsNeverFail : Obligations.ReadyCommandsNeverFail := by
  rintro i s ⟨hbusy, hmode, hrst⟩
  have hrun : (firstState i s).rst = none := ((cuts_firstOps s i).run (accept i s) hrst).1
  obtain ⟨_, _, _, _, hend⟩ := (firstEnd s i (firstState i s)).outcome_running hrun
  exact ⟨_, (exec_accepted hbusy (State.admits_of_allConfigured i hmode)).trans hend⟩

/-- A command that ends in a next state has changed nothing, or has made its operations and touched the handshake. -/
theorem eq_or_firstState_of_exec {i : Instr} {s t : State} (hrst : s.rst = none) (h : exec i s = .next t) :
    t = s ∨ ∃ busy done rdata cp, t = { firstState i s with busy := busy, done := done, rdata := rdata, cp := cp } := by
  obtain rfl | ⟨hbusy, hadmits⟩ := eq_or_accepted_of_exec h
  · exact .inl rfl
  · have hrun : (firstState i s).rst = none := ((cuts_firstOps s i).run (accept i s) hrst).1
    obtain ⟨busy, done, rdata, cp, hend⟩ := (firstEnd s i (firstState i s)).outcome_running hrun
    rw [exec_accepted hbusy hadmits, hend] at h
    cases h
    exact .inr ⟨busy, done, rdata, cp, rfl⟩

/-- The pulses of strategies 1 and 3 write TCK only. -/
theorem countedPulses_lvl_other {s : State} (hrst : s.rst = none) (n : BitVec 48) {o : OutSignal} (ho : o ≠ .tck) :
    (countedPulses n s).lvl.get o = s.lvl.get o := by
  rw [countedPulses_running n hrst]
  dsimp only [State.pulsed_lvl]
  split_ifs
  · rfl
  · exact Latches.get_set_other s.lvl 1 ho

/-- WAIT writes TCK only (R120). -/
theorem firstOps_wait_lvl_other {s : State} (hrst : s.rst = none) (s₀ : State) (d : BitVec 32) {o : OutSignal}
    (ho : o ≠ .tck) : (firstOps s₀ (.wait d) s).lvl.get o = s.lvl.get o := by
  have htck : ∀ v, (s.lvl.set .tck v).get o = s.lvl.get o := fun v => Latches.get_set_other s.lvl v ho
  cases hstrategy : s₀.cfg.strategy with
  | clockDriven =>
    rw [firstOps_wait_clockDriven hstrategy]
    exact countedPulses_lvl_other hrst _ ho
  | timerDriven =>
    rw [firstOps_wait_timerDriven hstrategy, timerStartOps_running hrst, timerLoopOps_events (by exact hrst)]
    exact htck 1
  | thresholdDriven =>
    by_cases hd : isLongWait d = true
    · rw [firstOps_wait_long hstrategy hd, sleepOps_running d hrst, microOp_id_running (by exact hrst)]
      exact htck 0
    · rw [firstOps_wait_short hstrategy hd]
      exact countedPulses_lvl_other hrst _ ho

/-- A latch is written by the SET of its line only, but for TCK's (R26). -/
theorem firstOps_lvl {s : State} (hrst : s.rst = none) (s₀ : State) {i : Instr} {o : OutSignal}
    (hset : ∀ v, i ≠ .set (codeOf o) v) (htck : o = .tck → i ≠ .pulse ∧ ∀ d, i ≠ .wait d) :
    (firstOps s₀ i s).lvl.get o = s.lvl.get o := by
  cases i with
  | init => rw [firstOps_init, configureAll_running _ hrst]
  | set sig v =>
    rw [firstOps_set]
    obtain ⟨o', rfl⟩ | hundriven := exists_codeOf_or_three_le sig
    · rw [setSignal_codeOf_running o' v hrst]
      exact Latches.get_set_other s.lvl v fun ho => hset v (by rw [ho])
    · rw [setSignal_no_effect hundriven]
  | read => rw [firstOps_read, padSample_running hrst]
  | pulse =>
    rw [firstOps_pulse, pulseClock_running hrst]
    exact Latches.get_set_other s.lvl 1 fun ho => (htck ho).1 rfl
  | wait d => exact firstOps_wait_lvl_other hrst s₀ d fun ho => (htck ho).2 d rfl

/-- The registers `CYC`, `ACC` and `T0` are WAIT's (R30, R32), and `SUB` and the record of pulses PULSE's and WAIT's (R31). -/
theorem firstOps_registers {s : State} (hrst : s.rst = none) (s₀ : State) {i : Instr} (hwait : ∀ d, i ≠ .wait d) :
    (firstOps s₀ i s).cyc = s.cyc ∧ (firstOps s₀ i s).acc = s.acc ∧ (firstOps s₀ i s).t0 = s.t0 ∧
      (i ≠ .pulse → (firstOps s₀ i s).sub = s.sub ∧ (firstOps s₀ i s).pulseAt = s.pulseAt) := by
  cases i with
  | init =>
    rw [firstOps_init, configureAll_running _ hrst]
    exact ⟨rfl, rfl, rfl, fun _ => ⟨rfl, rfl⟩⟩
  | set sig v =>
    rw [firstOps_set]
    obtain ⟨o, rfl⟩ | hundriven := exists_codeOf_or_three_le sig
    · rw [setSignal_codeOf_running o v hrst]
      exact ⟨rfl, rfl, rfl, fun _ => ⟨rfl, rfl⟩⟩
    · rw [setSignal_no_effect hundriven]
      exact ⟨rfl, rfl, rfl, fun _ => ⟨rfl, rfl⟩⟩
  | read =>
    rw [firstOps_read, padSample_running hrst]
    exact ⟨rfl, rfl, rfl, fun _ => ⟨rfl, rfl⟩⟩
  | pulse =>
    rw [firstOps_pulse, pulseClock_running hrst]
    exact ⟨rfl, rfl, rfl, fun hpulse => absurd rfl hpulse⟩
  | wait d => exact absurd rfl (hwait d)

/-- Settles O42, register by register. -/
theorem eachRegisterHasItsWriters : Obligations.EachRegisterHasItsWriters := by
  intro i s t hrst h
  have hcfg : t.cfg = s.cfg := (keptByOps_cfg s.cfg).of_exec hrst rfl h
  have hmode : i ≠ .init → t.mode = s.mode := fun hi => (mode_of_exec h hrst).resolve_right fun hinit => hi hinit.1
  obtain rfl | ⟨busy, done, rdata, cp, rfl⟩ := eq_or_firstState_of_exec hrst h
  · exact ⟨rfl, rfl, rfl, hrst, fun _ => rfl, fun _ => rfl, fun _ => rfl, fun _ _ _ => rfl, fun _ => ⟨rfl, rfl, rfl⟩,
      fun _ _ => ⟨rfl, rfl⟩⟩
  have hcuts := cuts_firstOps s i
  have hlatch := fun o => firstOps_lvl (s := accept i s) hrst s (i := i) (o := o)
  have hregisters := firstOps_registers (s := accept i s) hrst s (i := i)
  refine ⟨hcfg, hcuts.straps (accept i s), hcuts.prog (accept i s), (hcuts.run (accept i s) hrst).1, hmode,
    fun hset => hlatch .tms hset nofun, fun hset => hlatch .tdi hset nofun,
    fun hset hpulse hwait => hlatch .tck hset fun _ => ⟨hpulse, hwait⟩, fun hwait => ?counters,
    fun hpulse hwait => ?pulses⟩
  case counters =>
    obtain ⟨hcyc, hacc, ht0, _⟩ := hregisters hwait
    exact ⟨hcyc, hacc, ht0⟩
  case pulses =>
    obtain ⟨_, _, _, hrecord⟩ := hregisters hwait
    exact hrecord hpulse

end Sys2Proof.Machine
end

section
/-! O43 to O45: what the block does not read (R21, R24, R37). A disguise of a state changes its `CFG.CPM`, its strap inputs and
what stands before its trace and record; every operation leads from a disguised state to a disguised one, and but for strategy
1's product of `CFG.CPM` no choice of operations or of an end reads any of them. -/

namespace Sys2Proof.Machine

/-- A change of what a state holds unread. -/
structure Disguise where
  cpm : BitVec 16 → BitVec 16
  straps : StrapPins → StrapPins
  past : List Event
  marks : List Nat

/-- `s` under a disguise. -/
def State.disguise (h : Disguise) (s : State) : State :=
  { s with
    cfg := { s.cfg with cpm := h.cpm s.cfg.cpm }
    straps := h.straps s.straps
    tr := h.past ++ s.tr
    pulseAt := h.marks ++ s.pulseAt.map (· + h.past.length) }

/-- `F` does to a disguised state what it does to the state. -/
def Blind (F : State → State) : Prop := ∀ h s, F (s.disguise h) = (F s).disguise h

/-! ### The operations -/

theorem Blind.comp {F G : State → State} (hG : Blind G) (hF : Blind F) : Blind fun s => G (F s) := by
  intro h s
  show G (F (s.disguise h)) = _
  rw [hF, hG]

theorem blind_log (e : Env → Event) : Blind fun s => s.log (e s.env) := by
  intro h s
  simp [State.log, State.disguise]

theorem blind_microOp {f : State → State} (hf : Blind f) : Blind (microOp f) := by
  intro h s
  cases hrst : s.rst with
  | none => rw [microOp_running f hrst, microOp_running f (s := s.disguise h) hrst, ← hf]; rfl
  | some k =>
    cases k with
    | zero => rw [microOp_in_reset f hrst, microOp_in_reset f (s := s.disguise h) hrst]
    | succ k => rw [microOp_before_reset f hrst, microOp_before_reset f (s := s.disguise h) hrst, ← hf]; rfl

theorem blind_configurePin (sig : Signal) (m : PinMode) : Blind (configurePin sig m) :=
  blind_microOp ((blind_log fun _ => .cfg sig m).comp (F := fun s => { s with mode := s.mode.set sig m }) fun _ _ => rfl)

theorem blind_padWrite (o : OutSignal) (v : Level) : Blind (padWrite o v) :=
  blind_microOp ((blind_log fun _ => .write o v).comp (F := fun s => { s with lvl := s.lvl.set o v }) fun _ _ => rfl)

theorem blind_settle : Blind settle := blind_microOp (blind_log fun _ => .settle)

theorem blind_padSample : Blind fun s => (padSample s).2 := blind_microOp (blind_log fun e => .sample (sampledLevel e.tdo))

theorem blind_readClock : Blind fun s => (readClock s).2 := blind_microOp (blind_log fun e => .now e.now)

theorem blind_sleepCall (ms : BitVec 23) : Blind (sleepCall ms) := blind_microOp (blind_log fun _ => .sleep ms.toNat)

theorem blind_poll : Blind (microOp id) := blind_microOp fun _ _ => rfl

theorem blind_configureAll (n : Nat) : Blind (configureAll n) := by
  have hlist : ∀ l : List Signal, Blind fun s => l.foldl (fun s sig => configurePin sig (initMode sig) s) s := by
    intro l
    induction l with
    | nil => exact fun _ _ => rfl
    | cons sig l ih => exact ih.comp (blind_configurePin sig (initMode sig))
  exact hlist _

theorem blind_setSignal (sig : BitVec 8) (v : Level) : Blind (setSignal sig v) := by
  intro h s
  unfold setSignal
  split
  · exact blind_settle.comp (blind_padWrite .tck v) h s
  · exact blind_padWrite .tms v h s
  · exact blind_padWrite .tdi v h s
  · rfl
  · rfl

/-- The record moves with the trace. -/
theorem blind_markPulse : Blind State.markPulse := by
  intro h s
  simp [State.markPulse, State.disguise, Nat.add_comm]

theorem blind_pulseClock : Blind pulseClock := by
  have hsub : ∀ n, Blind fun s => s.atSub n := fun _ _ _ => rfl
  have hstart := (blind_padWrite .tck 0).comp ((hsub 0).comp blind_markPulse)
  have hlow := blind_settle.comp ((hsub 1).comp hstart)
  have hrise := (blind_padWrite .tck 1).comp ((hsub 2).comp hlow)
  exact blind_settle.comp ((hsub 3).comp hrise)

theorem blind_pulseWhile (fuel : Nat) : Blind (pulseWhile fuel) := by
  have hcounted : Blind countedPulse := Blind.comp (G := fun s => { s with acc := s.acc + 1 }) (fun _ _ => rfl) blind_pulseClock
  induction fuel with
  | zero => exact fun _ _ => rfl
  | succ fuel ih =>
    intro h s
    by_cases hend : s.acc = s.cyc
    · rw [pulseWhile, pulseWhile, if_pos hend]
      exact if_pos hend
    · rw [pulseWhile, pulseWhile, if_neg hend]
      exact (if_neg hend).trans (ih.comp hcounted h s)

theorem blind_countedPulses (n : BitVec 48) : Blind (countedPulses n) :=
  (blind_pulseWhile n.toNat).comp (F := fun s => { s with cyc := n, acc := 0 }) fun _ _ => rfl

theorem blind_timerStartOps : Blind timerStartOps :=
  Blind.comp (G := fun s => { s with t0 := s.env.now }) (fun _ _ => rfl) blind_readClock

theorem blind_timerLoopOps : Blind timerLoopOps := blind_readClock.comp blind_pulseClock

theorem blind_sleepOps (d : BitVec 32) : Blind (sleepOps d) := (blind_sleepCall (sleepMs d)).comp (blind_setSignal 0 0)

/-! ### The step -/

theorem blind_firstOps (s₀ : State) (i : Instr) : Blind (firstOps s₀ i) := by
  cases i with
  | init => exact Blind.comp (G := fun s => { s with mode := .configured }) (fun _ _ => rfl) (blind_configureAll _)
  | set sig v => exact blind_setSignal sig v
  | read => exact blind_padSample
  | pulse => exact blind_pulseClock
  | wait d =>
    intro h s
    cases hstrategy : s₀.cfg.strategy with
    | clockDriven =>
      simp only [firstOps_wait_clockDriven hstrategy]
      exact blind_countedPulses _ h s
    | timerDriven =>
      simp only [firstOps_wait_timerDriven hstrategy]
      exact blind_timerLoopOps.comp blind_timerStartOps h s
    | thresholdDriven =>
      by_cases hd : isLongWait d = true
      · simp only [firstOps_wait_long hstrategy hd]
        exact blind_poll.comp (blind_sleepOps d) h s
      · simp only [firstOps_wait_short hstrategy hd]
        exact blind_countedPulses _ h s

theorem blind_laterOps (s₀ : State) : Blind (laterOps s₀) := by
  obtain hops | hops | hops := laterOps_cases s₀
  · rw [hops]
    exact blind_timerLoopOps
  · rw [hops]
    exact blind_poll
  · rw [hops]
    exact fun _ _ => rfl

/-- Only a strategy-1 WAIT chooses its operations by `CFG.CPM` (R21). -/
theorem firstOps_disguise {h : Disguise} {i : Instr} {s₀ : State}
    (hcpm : h.cpm = id ∨ s₀.cfg.strategy ≠ .clockDriven ∨ ∀ d, i ≠ .wait d) :
    firstOps (s₀.disguise h) i = firstOps s₀ i := by
  cases i with
  | init | set | read | pulse => rfl
  | wait d =>
    funext s
    cases hstrategy : s₀.cfg.strategy with
    | clockDriven =>
      obtain hid | hother | hwait := hcpm
      · rw [firstOps_wait_clockDriven hstrategy, firstOps_wait_clockDriven (s₀ := s₀.disguise h) hstrategy]
        simp only [State.disguise, hid, id]
      · exact absurd hstrategy hother
      · exact absurd rfl (hwait d)
    | timerDriven => rw [firstOps_wait_timerDriven hstrategy, firstOps_wait_timerDriven (s₀ := s₀.disguise h) hstrategy]
    | thresholdDriven =>
      by_cases hd : isLongWait d = true
      · rw [firstOps_wait_long hstrategy hd, firstOps_wait_long (s₀ := s₀.disguise h) hstrategy hd]
      · rw [firstOps_wait_short hstrategy hd, firstOps_wait_short (s₀ := s₀.disguise h) hstrategy hd]

theorem firstEnd_disguise (h : Disguise) (s₀ : State) (i : Instr) (u : State) :
    firstEnd (s₀.disguise h) i (u.disguise h) = firstEnd s₀ i u := by
  cases i <;> rfl

theorem outcome_disguise (h : Disguise) (e : StepEnd) {u : State} (hrst : u.rst = none) :
    e.outcome (u.disguise h) = onNext (State.disguise h) (e.outcome u) := by
  cases e with
  | complete r =>
    rw [StepEnd.outcome_complete, StepEnd.outcome_complete, finish_running r hrst, finish_running r (s := u.disguise h) hrst]
    rfl
  | goesOn =>
    rw [StepEnd.outcome_goesOn, StepEnd.outcome_goesOn, suspend_running hrst, suspend_running (s := u.disguise h) hrst]
    rfl

/-- A command does to a disguised state what it does to the state. -/
theorem exec_disguise {h : Disguise} {i : Instr} {s : State} (hrst : s.rst = none)
    (hcpm : h.cpm = id ∨ s.cfg.strategy ≠ .clockDriven ∨ ∀ d, i ≠ .wait d) :
    exec i (s.disguise h) = onNext (State.disguise h) (exec i s) := by
  cases hbusy : s.busy with
  | true =>
    rw [exec_busy i hbusy, exec_busy i (s := s.disguise h) hbusy]
    rfl
  | false =>
    have hadmits' : (s.disguise h).admits i = s.admits i := by cases i <;> rfl
    cases hadmits : s.admits i with
    | false =>
      rw [exec_not_admitted hbusy hadmits, exec_not_admitted (s := s.disguise h) hbusy (hadmits'.trans hadmits)]
      rfl
    | true =>
      have hstate : firstState i (s.disguise h) = (firstState i s).disguise h := by
        rw [firstState, firstOps_disguise hcpm]
        exact blind_firstOps s i h (accept i s)
      have hrun : (firstState i s).rst = none := ((cuts_firstOps s i).run (accept i s) hrst).1
      rw [exec_accepted hbusy hadmits, exec_accepted (s := s.disguise h) hbusy (hadmits'.trans hadmits), hstate,
        firstEnd_disguise, outcome_disguise h _ hrun]

/-- A step does to a disguised state with the same `CFG.CPM` what it does to the state. -/
theorem step_disguise {h : Disguise} {s : State} (hrst : s.rst = none) (hcpm : h.cpm = id) :
    step (s.disguise h) = onNext (State.disguise h) (step s) := by
  have hreset : s.inReset = false := by simp [State.inReset, hrst]
  cases hbusy : s.busy with
  | true =>
    have hstate : laterOps (s.disguise h) (s.disguise h) = (laterOps s s).disguise h := blind_laterOps s h s
    have hrun : (laterOps s s).rst = none := ((cuts_laterOps s).run s hrst).1
    rw [step_busy hbusy hrst, step_busy (s := s.disguise h) hbusy hrst, continueCommand_eq, continueCommand_eq, hstate]
    exact outcome_disguise h _ hrun
  | false =>
    cases hword : s.cmdWord with
    | none =>
      rw [step_exhausted hreset hbusy hword, step_exhausted (s := s.disguise h) hreset hbusy hword]
      rfl
    | some w =>
      cases hdecode : decode w with
      | error e =>
        rw [step_invalid hreset hbusy hword hdecode, step_invalid (s := s.disguise h) hreset hbusy hword hdecode]
        rfl
      | ok i =>
        rw [step_presented hreset hbusy hword hdecode, step_presented (s := s.disguise h) hreset hbusy hword hdecode]
        exact exec_disguise hrst (.inl hcpm)

/-! ### The statements -/

/-- Settles O43: a disguise of `CFG.CPM`. -/
theorem calibrationReadByStrategyOneOnly : Obligations.CalibrationReadByStrategyOneOnly := by
  intro i s k hrst hcpm
  have hdisguise : (fun t : State => { t with cfg := { t.cfg with cpm := k } }) =
      State.disguise ⟨fun _ => k, id, [], []⟩ := by
    funext t
    simp [State.disguise]
  have hexec := exec_disguise (h := ⟨fun _ => k, id, [], []⟩) hrst (.inr hcpm)
  rw [← hdisguise] at hexec
  exact hexec

/-- Settles O44: a disguise of the strap inputs. -/
theorem strapInputsHaveNoEffect : Obligations.StrapInputsHaveNoEffect := by
  intro s p hrst
  have hdisguise : (fun t : State => { t with straps := p }) = State.disguise ⟨id, fun _ => p, [], []⟩ := by
    funext t
    simp [State.disguise]
  have hstep := step_disguise (h := ⟨id, fun _ => p, [], []⟩) hrst rfl
  rw [← hdisguise] at hstep
  exact hstep

/-- Settles O45: a disguise of what stands before the trace and the record. -/
theorem traceIsNeverRead : Obligations.TraceIsNeverRead :=
  fun _ T marks hrst => step_disguise (h := ⟨id, id, T, marks⟩) hrst rfl

end Sys2Proof.Machine
end
